-- ==== Sys2Proof/Word.lean ====
section
/-! DEFINITION. The widths of the spec's unsigned integers (00_scope.md R9). -/

namespace Sys2Proof

/-- A tick-buffer entry, `u8` (10_state.md R24). -/
abbrev Byte := BitVec 8

/-- A throttle, a frame, a timer register: `u16` (10_state.md R27). -/
abbrev Half := BitVec 16

/-- A command word (30_encoding.md R87). -/
abbrev Word := BitVec 32

end Sys2Proof
end

