-- ==== Sys2Proof/Config.lean ====
section
/-! DEFINITION. The fixed constants (00_scope.md R7), the parameters the platform supplies (R8, 70_reset_and_hazards.md
R254), and the one free value of the model: which agent moves next (R11). -/

namespace Sys2Proof

/-- The protocol variant (00_scope.md R2, 30_encoding.md R86). -/
inductive Variant where
  | standard
  | fast
  deriving DecidableEq, Repr

namespace Config

/-- `BUF_LEN`: entries in a tick buffer (R7). -/
def bufLen : Nat := 16
/-- `PAYLOAD_BITS`: the payload's width (R7). -/
def payloadBits : Nat := 11
/-- `N_CHANNELS`: compare channels per timer (R7). -/
def nChannels : Nat := 4
/-- `TICK_1`: the compare value for a 1-bit (R7). -/
def tick1 : Byte := 29#8
/-- `TICK_0`: the compare value for a 0-bit (R7). -/
def tick0 : Byte := 14#8
/-- `MOTOR_BITLENGTH`: the timer's period register value (R7). -/
def motorBitLength : Half := 39#16
/-- `TICKS_PER_BIT`: counts per bit period (R7, D1). -/
def ticksPerBit : Nat := 40
/-- `DISARM_MAX`: the largest throttle whose value is 0 (R7). -/
def disarmMax : Nat := 1000
/-- `VALUE_OFFSET`: added after doubling (R7). -/
def valueOffset : Nat := 48
/-- `TELEMETRY`: the telemetry bit ENCODE writes (R7, 40_encoder.md R113). -/
def telemetry : Bool := false
/-- `TICK_RATE(V)` in Hz (R7). -/
def tickRate : Variant → Nat
  | .standard => 6000000
  | .fast => 24000000
/-- `BITRATE(V)` in bit/s (R7). -/
def bitRate : Variant → Nat
  | .standard => 150000
  | .fast => 600000

end Config

/-- A physical timer: the source's "opaque handle" (R8). The number only tells handles apart. -/
structure TimerId where
  id : Nat
  deriving DecidableEq, Repr

/-- An output pin (R8), opaque. -/
structure PinId where
  id : Nat
  deriving DecidableEq, Repr

/-- A DMA stream handle (R8), opaque. -/
structure StreamId where
  id : Nat
  deriving DecidableEq, Repr

/-- A completion-signal identity (R8), opaque. -/
structure SignalId where
  id : Nat
  deriving DecidableEq, Repr

/-- One row of the resource table (R8). `channel` is a raw selector: CONFIGURE checks it. -/
structure Binding where
  timerId : TimerId
  channel : Nat
  pin : PinId
  af : Nat
  stream : StreamId
  signal : SignalId
  deriving DecidableEq, Repr

/-- What the platform supplies besides `NM` and `NT` (R8, R254). It is plain data in State, so that every statement
about a state ranges over every platform. -/
structure Platform where
  /-- `RT`: the resource table, by motor index; a motor it does not list has no binding (R223 c). -/
  rt : List (Nat × Binding)
  /-- `SYSCLK_HZ`. -/
  sysclkHz : Nat
  /-- `CLKDIV` of the timers listed. -/
  clkDiv : List (TimerId × Nat)
  /-- `CLKDIV` of every other timer. -/
  clkDivElse : Nat
  /-- `IRQ_PRIO`: recorded, without effect (60_exceptions.md R226). -/
  irqPrio : Nat
  /-- `PIN_OWNERS0`: the pins other claimants own at reset. -/
  pinOwners0 : List PinId
  deriving DecidableEq, Repr

/-- The common start state of 95_test_vectors.md: four motors on timers A, B, C (here 0, 1, 2), pins and streams 0 to 3. It
gives neither `IRQ_PRIO` nor the rows' `signal`: priority 0 and signals 0 to 3 are the model's own values, DESIGN CHOICE
(log 1). -/
def Platform.common : Platform where
  rt := [(0, ⟨⟨0⟩, 1, ⟨0⟩, 1, ⟨0⟩, ⟨0⟩⟩), (1, ⟨⟨0⟩, 2, ⟨1⟩, 1, ⟨1⟩, ⟨1⟩⟩),
         (2, ⟨⟨1⟩, 1, ⟨2⟩, 2, ⟨2⟩, ⟨2⟩⟩), (3, ⟨⟨2⟩, 3, ⟨3⟩, 2, ⟨3⟩, ⟨3⟩⟩)]
  sysclkHz := 168000000
  clkDiv := []
  clkDivElse := 1
  irqPrio := 0
  pinOwners0 := []

/-- Which agent takes the next step (R11): the CPU with its next host command, the CPU with motor `m`'s handler,
or the timer agent of group `i`. -/
inductive Turn where
  | host
  | handler (m : Nat)
  | timer (i : Nat)
  deriving DecidableEq, Repr, Inhabited

/-- FREE VALUE: who moves when no turn is scripted. "Any enabled agent may take the next step" (R11): nothing is known
of this sequence, so a claim holds for every interleaving. -/
opaque Config.freeTurn : Nat → Turn

end Sys2Proof
end

