-- ==== Sys2Proof/Syntax.lean ====
section
/-! DEFINITION. The four commands of spec/opcode_table.json (30_encoding.md R88). -/

namespace Sys2Proof

/-- A command with its operands (30_encoding.md R88). A motor index or tag is a number, the throttle is a 16-bit word. -/
inductive Instr where
  /-- `configure M, standard|fast` (42_configurator.md R150). -/
  | configure (m : Nat) (v : Variant)
  /-- `encode M, T` (40_encoder.md R116). -/
  | encode (m : Nat) (throttle : Half)
  /-- `complete_update_cycle` (44_batch_update.md R180). -/
  | completeUpdateCycle
  /-- `tc_handler M` (43_completion_handler.md R170). -/
  | tcHandler (tag : Nat)
  deriving DecidableEq, Repr

end Sys2Proof
end

