-- ==== Sys2Proof/WellFormed.lean ====
section
/-! DEFINITION. Which commands have a word: the motor index or tag fits the 8-bit field M (30_encoding.md R87, R92). -/

namespace Sys2Proof

/-- The motor index or tag of a command, where it has one. -/
def Instr.motorOperand? : Instr → Option Nat
  | .configure m _ => some m
  | .encode m _ => some m
  | .completeUpdateCycle => none
  | .tcHandler tag => some tag

/-- "M is decimal 0..255" (30_encoding.md R92). -/
def Instr.wellFormed : Instr → Bool
  | .configure m _ => decide (m < 256)
  | .encode m _ => decide (m < 256)
  | .completeUpdateCycle => true
  | .tcHandler tag => decide (tag < 256)

end Sys2Proof
end

