-- ==== Sys2Proof/Decode.lean ====
section
/-! DEFINITION. The decoder, total on every 32-bit word, and after it the encoder, the table's masks and the assembler
text (30_encoding.md R87 to R92). -/

namespace Sys2Proof

/-- Why a word is ILLEGAL (30_encoding.md R90). -/
inductive Illegal where
  /-- Opcode 0x0 or 0x5..0xF (R90 a). -/
  | opcode
  /-- A reserved command bit is set (R90 b). -/
  | reservedBits
  deriving DecidableEq, Repr

/-- `OP`, bits 31:28 (R87). -/
def opField (w : Word) : BitVec 4 := w.extractLsb' 28 4
/-- `R1`, bits 27:24 (R87). -/
def reservedField (w : Word) : BitVec 4 := w.extractLsb' 24 4
/-- `M`, bits 23:16 (R87). -/
def motorField (w : Word) : Byte := w.extractLsb' 16 8
/-- `IMM`, bits 15:0 (R87). -/
def immField (w : Word) : Half := w.extractLsb' 0 16

/-- `V`: 0 = STANDARD, 1 = FAST (R86). -/
def variantOfBit : Bool → Variant
  | false => .standard
  | true => .fast

/-- The decoder (R88, R89). -/
def decode (w : Word) : Except Illegal Instr :=
  if reservedField w ≠ 0#4 then .error .reservedBits
  else if opField w = 1#4 then
    if (immField w).extractLsb' 1 15 = 0#15 then
      .ok (.configure (motorField w).toNat (variantOfBit ((immField w).getLsbD 0)))
    else .error .reservedBits
  else if opField w = 2#4 then .ok (.encode (motorField w).toNat (immField w))
  else if opField w = 3#4 then
    if motorField w = 0#8 ∧ immField w = 0#16 then .ok .completeUpdateCycle else .error .reservedBits
  else if opField w = 4#4 then
    if immField w = 0#16 then .ok (.tcHandler (motorField w).toNat) else .error .reservedBits
  else .error .opcode

/-- The command the decoder reads from a table row's word; a command is always one 32-bit word (R91). -/
def decodeTableWord (nbits w : Nat) : Option Instr :=
  if w % 2 ^ nbits < 2 ^ 32 then
    match decode (BitVec.ofNat 32 (w % 2 ^ nbits)) with
    | .ok i => some i
    | .error _ => none
  else none

/-- The bit of a variant (R86). -/
def bitOfVariant : Variant → Half
  | .standard => 0#16
  | .fast => 1#16

/-- A command word from its fields, with `R1 = 0` (R87). -/
def packWord (op : BitVec 4) (m : Byte) (imm : Half) : Word :=
  BitVec.setWidth 32 op <<< 28 ||| BitVec.setWidth 32 m <<< 16 ||| BitVec.setWidth 32 imm

/-- The encoder (R88). -/
def encode : Instr → Word
  | .configure m v => packWord 1#4 (BitVec.ofNat 8 m) (bitOfVariant v)
  | .encode m t => packWord 2#4 (BitVec.ofNat 8 m) t
  | .completeUpdateCycle => packWord 3#4 0#8 0#16
  | .tcHandler tag => packWord 4#4 (BitVec.ofNat 8 tag) 0#16

/-- One row of the opcode table: the bits a word must have (R89). -/
structure OpcodeRow where
  pattern : Word
  mask : Word
  deriving DecidableEq, Repr

/-- The word has the row's bits. -/
def OpcodeRow.covers (r : OpcodeRow) (w : Word) : Bool := decide (w &&& r.mask = r.pattern)

/-- R89's match and mask of a command's row. -/
def opcodeRow : Instr → OpcodeRow
  | .configure _ _ => ⟨0x10000000#32, 0xFF00FFFE#32⟩
  | .encode _ _ => ⟨0x20000000#32, 0xFF000000#32⟩
  | .completeUpdateCycle => ⟨0x30000000#32, 0xFFFFFFFF#32⟩
  | .tcHandler _ => ⟨0x40000000#32, 0xFF00FFFF#32⟩

/-- R89's four rows, in the table's order. -/
def opcodeRows : List OpcodeRow :=
  [⟨0x10000000#32, 0xFF00FFFE#32⟩, ⟨0x20000000#32, 0xFF000000#32⟩,
   ⟨0x30000000#32, 0xFFFFFFFF#32⟩, ⟨0x40000000#32, 0xFF00FFFF#32⟩]

/-- The textual form of a variant (R92). -/
def variantText : Variant → String
  | .standard => "standard"
  | .fast => "fast"

/-- The textual form of a command (R92). -/
def assemblerText : Instr → String
  | .configure m v => "configure " ++ toString m ++ ", " ++ variantText v
  | .encode m t => "encode " ++ toString m ++ ", " ++ toString t.toNat
  | .completeUpdateCycle => "complete_update_cycle"
  | .tcHandler tag => "tc_handler " ++ toString tag

end Sys2Proof
end

