-- ==== Sys2Proof/Machine/Memory.lean ====
section
/-! DEFINITION. Sparse tables in one canonical form, and data memory as one of them (20_memory.md R60, R61). -/

namespace Sys2Proof.Machine

/-- What a sparse table holds at a key. -/
def Sparse.read {α : Type} : List (Nat × α) → Nat → Option α
  | [], _ => none
  | (k, v) :: rest, a => if k = a then some v else Sparse.read rest a

/-- A sparse table with a key's value replaced or inserted in order. -/
def Sparse.write {α : Type} : List (Nat × α) → Nat → α → List (Nat × α)
  | [], a, x => [(a, x)]
  | (k, v) :: rest, a, x =>
    if a < k then (a, x) :: (k, v) :: rest
    else if k = a then (a, x) :: rest
    else (k, v) :: Sparse.write rest a x

/-- The keys rise strictly. -/
abbrev Sparse.rising {α : Type} (t : List (Nat × α)) : Prop := (t.map Prod.fst).Pairwise (· < ·)

/-- Data memory: the bytes that hold a value. An unlisted byte holds no value (70_reset_and_hazards.md R250), so no
listed byte equals what an unlisted one reads as. -/
abbrev Memory := List Host.Cell

/-- The byte at an address, if it holds a value (R222). -/
def Memory.read (mem : Memory) (a : Nat) : Option Byte := Sparse.read mem a

/-- The memory after a byte is written. -/
def Memory.write (mem : Memory) (a : Nat) (v : Byte) : Memory := Sparse.write mem a v

/-- The canonical form: addresses strictly rising. -/
abbrev Memory.wf (mem : Memory) : Prop := Sparse.rising mem

end Sys2Proof.Machine
end

