-- ==== Sys2Proof/Machine/State.lean ====
section
/-! DEFINITION. The machine state `(CPU, M, REG, T, D, H, PIN, FAULT)` (10_state.md R20) as plain data, its reset, and the
reasons a step can stop. A field whose reset is "no value" is an `Option` (R222). -/

namespace Sys2Proof.Machine

/-- A supported channel selector (10_state.md R36). -/
inductive Channel where
  | ch1
  | ch2
  | ch3
  | ch4
  deriving DecidableEq, Repr

/-- One value for each of a timer's four channels (`N_CHANNELS`, 00_scope.md R7). -/
structure PerChannel (α : Type) where
  ch1 : α
  ch2 : α
  ch3 : α
  ch4 : α
  deriving DecidableEq, Repr

/-- The fault codes (60_exceptions.md R221). -/
inductive FaultCode where
  /-- 1, by CONFIGURE. -/
  | pinAlreadyOwned
  /-- 2, by CONFIGURE. -/
  | registryCapacityExceeded
  /-- 3, by CONFIGURE. -/
  | unsupportedChannel
  /-- 4, by CONFIGURE, ENCODE, TC_HANDLER. -/
  | badMotorIndex
  /-- 5, by CONFIGURE. -/
  | alreadyConfigured
  /-- 6, by ENCODE. -/
  | notConfigured
  /-- 7, by ENCODE. -/
  | encodeWhileStreamEnabled
  /-- 8, by CONFIGURE. -/
  | channelConflict
  /-- 9, by CONFIGURE. -/
  | streamConflict
  /-- 10, by a word that decodes to ILLEGAL. -/
  | illegalCommand
  /-- 11, by a step that reads a field without a value. -/
  | unwrittenRead
  deriving DecidableEq, Repr

/-- Which operand an out-of-range motor index came in as: the cause of code 4 is a "motor field or tag `≥ NM`" (60_exceptions.md
R221). -/
inductive IndexOperand where
  /-- The motor field of CONFIGURE and ENCODE. -/
  | motorField
  /-- "handler tag": the operand of TC_HANDLER (43_completion_handler.md R170). -/
  | tag
  deriving DecidableEq, Repr

/-- The resource a fault records (60_exceptions.md R221). -/
inductive Resource where
  /-- "motor index", the resource of code 4 for all three commands, with the operand it came in as: so TC_HANDLER's record
  carries both R221's "motor index" and R170's "handler tag" (DESIGN CHOICE, log 24). -/
  | motorIndex (operand : IndexOperand)
  /-- "motor channel" -/
  | motorChannel
  | pin (p : PinId)
  | timer (t : TimerId)
  /-- A raw channel selector. -/
  | selector (n : Nat)
  | stream (st : StreamId)
  | timerChannel (t : TimerId) (c : Channel)
  /-- The word that decodes to ILLEGAL. -/
  | word (w : Word)
  /-- Code 11: the next entry of a motor's tick buffer. -/
  | bufferEntry
  /-- Code 11: `REG.id` of a configured motor's group. -/
  | registryEntry
  deriving DecidableEq, Repr

/-- `(code, motor, resource)` (10_state.md R34). -/
structure FaultRecord where
  code : FaultCode
  motor : Option Nat
  resource : Resource
  deriving DecidableEq, Repr

/-- Why a step stops with a fault. -/
inductive Fault where
  /-- Raised by `step` when FAULT is recorded: "while `FAULT ≠ NONE`, no CPU step, no handler step and no timer step is
  enabled" (60_exceptions.md R220 d). It carries the record, the result of the run (70_reset_and_hazards.md R271 a).
  Safe. -/
  | halted (f : FaultRecord)
  deriving DecidableEq, Repr

/-- Why a step has no meaning. -/
inductive Refusal where
  /-- Raised by no command of this model: an arm without a meaning. Safe. -/
  | notModelled (mnemonic : String)
  /-- Raised by CONFIGURE: the parameters give the timer no prescaler for the variant (60_exceptions.md R223 a). Safe. -/
  | noPrescaler (t : TimerId) (v : Variant)
  /-- Raised by `step`: `NM` outside 1..256 (R223 b). Safe. -/
  | motorCount (nm : Nat)
  /-- Raised by CONFIGURE: `RT(m)` is undefined (R223 c). Safe. -/
  | noBinding (m : Nat)
  deriving DecidableEq, Repr

/-- `T.mode` (10_state.md R27). -/
inductive OutputMode where
  | off
  | pwm
  deriving DecidableEq, Repr

/-- `T.dir`: only up-counting exists (10_state.md R27). -/
inductive Direction where
  | up
  deriving DecidableEq, Repr

/-- Item widths of a DMA stream (10_state.md R29). -/
inductive ItemWidth where
  | w8
  | w16
  deriving DecidableEq, Repr

/-- `D.prio` (10_state.md R29). -/
inductive Priority where
  | high
  deriving DecidableEq, Repr

/-- The binding fields `M.grp, M.ch, M.stream, M.pin`, which CONFIGURE writes together, once (10_state.md R23). -/
structure Bound where
  grp : Nat
  ch : Channel
  stream : StreamId
  pin : PinId
  deriving DecidableEq, Repr

/-- `M` of one motor (10_state.md R23), less its tick buffer, which is in memory. `M.cfg` is `bound.isSome`. -/
structure MotorChannel where
  bound : Option Bound
  /-- `M.last`. -/
  last : Option Half
  deriving DecidableEq, Repr

/-- The stream fields CONFIGURE writes together (10_state.md R29). -/
structure StreamSetup where
  dst : Nat × Channel
  /-- `D.src = BUF(m)`: the motor whose buffer is the source. -/
  src : Nat
  msize : ItemWidth
  psize : ItemWidth
  minc : Bool
  pinc : Bool
  circ : Bool
  prio : Priority
  deriving DecidableEq, Repr

/-- `D` of one motor (10_state.md R29). -/
structure DmaStream where
  en : Bool
  ndtr : Half
  tcif : Bool
  tcie : Bool
  setup : Option StreamSetup
  deriving DecidableEq, Repr

/-- Everything indexed by one motor: `M[m]`, `D[m]` and `H.reg[m]` (10_state.md R20). -/
structure Motor where
  chan : MotorChannel
  dma : DmaStream
  hreg : Bool
  deriving DecidableEq, Repr

/-- The fields of one compare channel (10_state.md R27). -/
structure CompareUnit where
  /-- `c ∈ T.src[i]`. -/
  src : Bool
  dier : Bool
  mode : OutputMode
  ocpe : Bool
  ccr : Half
  ccrp : Half
  out : Bool
  deriving DecidableEq, Repr

/-- `T` of one timer group (10_state.md R27). -/
structure Group where
  tid : Option TimerId
  tb : Bool
  variant : Option Variant
  psc : Half
  arr : Half
  cnt : Half
  cen : Bool
  arpe : Bool
  moe : Bool
  dir : Direction
  chans : PerChannel CompareUnit
  deriving DecidableEq, Repr

/-- `PIN.owner` (10_state.md R33). -/
inductive PinOwner where
  | none
  | other
  | motor (m : Nat)
  deriving DecidableEq, Repr

/-- `PIN.mode` (10_state.md R33). -/
inductive PinMode where
  | unchanged
  | af (n : Nat)
  deriving DecidableEq, Repr

/-- `PIN` of one pin (10_state.md R33). -/
structure PinState where
  owner : PinOwner
  mode : PinMode
  deriving DecidableEq, Repr

/-- `CPU` (10_state.md R22), with the state R182 and R227 imply. -/
structure Cpu where
  hpc : Nat
  /-- The next group of a COMPLETE_UPDATE_CYCLE in progress: 0 when none is (44_batch_update.md R182). -/
  batch : Nat
  /-- The main context saved by an interrupt entry: absent in the main context (60_exceptions.md R227, R231). -/
  saved : Option Nat
  deriving DecidableEq, Repr

/-- The machine state (10_state.md R20). -/
structure State where
  /-- The parameters of 00_scope.md R8; no step changes them. -/
  plat : Platform
  /-- The host program (R22). -/
  prog : List Word
  cpu : Cpu
  /-- `M`, `D` and `H`, indexed 0..NM-1. -/
  motors : List Motor
  /-- `REG.id[0 .. REG.count-1]` (R26). -/
  reg : List TimerId
  /-- `T`, indexed 0..NT-1. -/
  groups : List Group
  /-- `PIN`, by pin: an unlisted pin is unowned and unchanged (R33). -/
  pins : List (Nat × PinState)
  /-- The tick buffers `M.buf` (20_memory.md R61). -/
  mem : Memory
  /-- `FAULT` (R34). -/
  fault : Option FaultRecord
  /-- The turns scripted to come next: the model's own input (00_scope.md R11). -/
  sched : List Turn
  /-- How many free turns have been taken: the model's own counter. -/
  choices : Nat
  deriving DecidableEq, Repr

/-- The outcome of a step or of a command. -/
abbrev Result := Host.Outcome State Fault Refusal

/-- An unconfigured motor (70_reset_and_hazards.md R250). -/
def Motor.reset : Motor where
  chan := ⟨none, none⟩
  dma := ⟨false, 0#16, false, false, none⟩
  hreg := false

/-- A channel before configuration (R250). -/
def CompareUnit.reset : CompareUnit := ⟨false, false, .off, false, 0#16, 0#16, false⟩

/-- A timer group before configuration (R250). -/
def Group.reset : Group where
  tid := none
  tb := false
  variant := none
  psc := 0#16
  arr := 0#16
  cnt := 0#16
  cen := false
  arpe := false
  moe := false
  dir := .up
  chans := ⟨CompareUnit.reset, CompareUnit.reset, CompareUnit.reset, CompareUnit.reset⟩

/-- A pin nobody owns (R250). -/
def PinState.reset : PinState := ⟨.none, .unchanged⟩

/-- The pins at reset: OTHER owns those of `PIN_OWNERS0` (10_state.md R33). -/
def pinsAtReset : List PinId → List (Nat × PinState)
  | [] => []
  | p :: rest => Sparse.write (pinsAtReset rest) p.id ⟨.other, .unchanged⟩

/-- The reset state of a block with `nm` motors, a registry of `nt` timers and a platform (R250), before the host has
supplied a program. -/
def State.resetWith (nm nt : Nat) (p : Platform) : State where
  plat := p
  prog := []
  cpu := ⟨0, 0, none⟩
  motors := List.replicate nm Motor.reset
  reg := []
  groups := List.replicate nt Group.reset
  pins := pinsAtReset p.pinOwners0
  mem := []
  fault := none
  sched := []
  choices := 0

/-- The reset state under the parameters of 95_test_vectors.md's common start state. -/
def State.reset : State := State.resetWith 4 8 Platform.common

end Sys2Proof.Machine
end

