-- ==== Sys2Proof/Machine/Ops.lean ====
section
/-! DEFINITION. The named reads and writes of the state that every operation goes through; raising a fault (60_exceptions.md
R220); entering and leaving the interrupt context (R227). -/

namespace Sys2Proof.Machine

/-! ### Channels -/

/-- The four channels in order (10_state.md R36). -/
def Channel.all : List Channel := [.ch1, .ch2, .ch3, .ch4]

/-- The value of one channel. -/
def PerChannel.get {α : Type} (x : PerChannel α) : Channel → α
  | .ch1 => x.ch1
  | .ch2 => x.ch2
  | .ch3 => x.ch3
  | .ch4 => x.ch4

/-- The values with one channel's replaced. -/
def PerChannel.set {α : Type} (x : PerChannel α) (c : Channel) (v : α) : PerChannel α :=
  match c with
  | .ch1 => { x with ch1 := v }
  | .ch2 => { x with ch2 := v }
  | .ch3 => { x with ch3 := v }
  | .ch4 => { x with ch4 := v }

/-- The values, each changed by one function. -/
def PerChannel.map {α : Type} (f : α → α) (x : PerChannel α) : PerChannel α :=
  ⟨f x.ch1, f x.ch2, f x.ch3, f x.ch4⟩

/-- Channel `c` of a group. -/
def Group.chan (g : Group) (c : Channel) : CompareUnit := g.chans.get c

/-- A group with channel `c` replaced. -/
def Group.setChan (g : Group) (c : Channel) (x : CompareUnit) : Group := { g with chans := g.chans.set c x }

/-! ### Motors, groups, registry, pins -/

/-- `NM`. -/
def State.nm (s : State) : Nat := s.motors.length

/-- `NT`. -/
def State.nt (s : State) : Nat := s.groups.length

/-- `M[m]`, `D[m]`, `H.reg[m]`. -/
def State.motor (s : State) (m : Nat) : Motor := s.motors.getD m Motor.reset

/-- Replace motor `m`'s fields. -/
def State.setMotor (s : State) (m : Nat) (u : Motor) : State := { s with motors := s.motors.set m u }

/-- `T[i]`. -/
def State.group (s : State) (i : Nat) : Group := s.groups.getD i Group.reset

/-- Replace group `i`'s fields. -/
def State.setGroup (s : State) (i : Nat) (g : Group) : State := { s with groups := s.groups.set i g }

/-- `M.cfg` (10_state.md R23). -/
def MotorChannel.cfg (x : MotorChannel) : Bool := x.bound.isSome

/-- `REG.count` (10_state.md R26). -/
def State.regCount (s : State) : Nat := s.reg.length

/-- `PIN[p]` (10_state.md R33). -/
def State.pin (s : State) (p : PinId) : PinState := (Sparse.read s.pins p.id).getD PinState.reset

/-- Give pin `p` to motor `m` in alternate function `af` (42_configurator.md R151). -/
def State.claimPin (s : State) (p : PinId) (m af : Nat) : State :=
  { s with pins := Sparse.write s.pins p.id ⟨.motor m, .af af⟩ }

/-- The canonical form of the pins: rising, and no pin listed as an unlisted one reads. -/
abbrev pinsWf (t : List (Nat × PinState)) : Prop := Sparse.rising t ∧ ∀ e ∈ t, e.2 ≠ PinState.reset

/-! ### Memory (20_memory.md R60 to R63) -/

/-- The model's number for the byte `(BUF(m), k)`, `k < 16`: distinct for distinct `(m, k)` (R61). -/
def bufAddr (m k : Nat) : Nat := 16 * m + k

/-- `MemRead((BUF(m), k), 1)`: entry `k` of motor `m`'s buffer, if it holds a value. -/
def State.readTick (s : State) (m k : Nat) : Option Byte :=
  if k < Config.bufLen then s.mem.read (bufAddr m k) else none

/-- `MemWrite((BUF(m), k), 1, v)`. -/
def State.writeTick (s : State) (m k : Nat) (v : Byte) : State := { s with mem := s.mem.write (bufAddr m k) v }

/-- `MemWrite((CCR(i, c), 0), 2, v)`: the half-word lands in the preload `T.ccrp[i][c]` (45_streamer.md R196). -/
def State.writeCompare (s : State) (i : Nat) (c : Channel) (v : Half) : State :=
  s.setGroup i ((s.group i).setChan c { (s.group i).chan c with ccrp := v })

/-! ### The CPU, faults and the interrupt context -/

/-- The number of a fault code (60_exceptions.md R221). -/
def FaultCode.number : FaultCode → Nat
  | .pinAlreadyOwned => 1
  | .registryCapacityExceeded => 2
  | .unsupportedChannel => 3
  | .badMotorIndex => 4
  | .alreadyConfigured => 5
  | .notConfigured => 6
  | .encodeWhileStreamEnabled => 7
  | .channelConflict => 8
  | .streamConflict => 9
  | .illegalCommand => 10
  | .unwrittenRead => 11

/-- `CPU.hpc <- CPU.hpc + 1` (10_state.md R22). -/
def State.advance (s : State) : State := { s with cpu := { s.cpu with hpc := s.cpu.hpc + 1 } }

/-- R220 (a): set FAULT, but only if it is NONE. -/
def State.recordFault (s : State) (f : FaultRecord) : State :=
  { s with fault := match s.fault with
      | some old => some old
      | none => some f }

/-- `raise Fault` by a command: record it, leave every other field, and advance past the command (R220 a to c). -/
def State.raiseFault (s : State) (f : FaultRecord) : State := (s.recordFault f).advance

/-- A command that raises a fault: the machine goes to the faulted state, whose next step halts (R220 d). -/
def State.faulting (s : State) (code : FaultCode) (motor : Option Nat) (resource : Resource) : Result :=
  .next (s.raiseFault ⟨code, motor, resource⟩)

/-- The CPU is in the main context (60_exceptions.md R231). -/
def State.inMain (s : State) : Bool := s.cpu.saved.isNone

/-- "Entry saves the main context. In the model that is only `CPU.hpc`" (R227). -/
def State.enterInterrupt (s : State) : State := { s with cpu := { s.cpu with saved := some s.cpu.hpc } }

/-- "On return the CPU resumes the host command at `CPU.hpc`" (R227). -/
def State.returnFromInterrupt (s : State) : State :=
  { s with cpu := { s.cpu with hpc := s.cpu.saved.getD s.cpu.hpc, saved := none } }

end Sys2Proof.Machine
end

