-- ==== Sys2Proof/Machine/BatchUpdate.lean ====
section
/-! DEFINITION. COMPLETE_UPDATE_CYCLE (44_batch_update.md), one atomic step per registered group (R182). -/

namespace Sys2Proof.Machine

/-- A request source of the group is enabled; a channel that is no source stays as it is (R181). -/
def CompareUnit.enableSource (x : CompareUnit) : CompareUnit := if x.src then { x with dier := true } else x

/-- One group's update: the counter to 0, then every registered source's request enabled, as one write (R181). It raises no
event and leaves the outputs (45_streamer.md R195). -/
def Group.restart (g : Group) : Group := { g with cnt := 0#16, chans := g.chans.map CompareUnit.enableSource }

/-- The group the command is at, updated, if there is one. -/
def State.restartCurrent (s : State) : State :=
  if s.cpu.batch < s.regCount then s.setGroup s.cpu.batch (s.group s.cpu.batch).restart else s

/-- COMPLETE_UPDATE_CYCLE: the next group's update. After the last group, or when there is none, the command is over and
`CPU.hpc` advances, once (R180, R182). -/
def execCompleteUpdateCycle (s : State) : Result :=
  if s.cpu.batch + 1 < s.regCount then
    .next { s.restartCurrent with cpu := { s.cpu with batch := s.cpu.batch + 1 } }
  else
    .next { s.restartCurrent with cpu := { s.cpu with batch := 0, hpc := s.cpu.hpc + 1 } }

end Sys2Proof.Machine
end

