-- ==== Sys2Proof/Machine/Flags.lean ====
section
/-! DEFINITION. The block's one flag per stream, the transfer-complete flag (10_state.md R30), and the interrupt it
makes pending (R32). -/

namespace Sys2Proof.Machine

/-- The transfer that brings `D.ndtr` to 0 sets `D.tcif`; any other transfer only counts down (45_streamer.md R196, R197). -/
def DmaStream.transferred (d : DmaStream) : DmaStream :=
  { d with ndtr := d.ndtr - 1#16, tcif := if d.ndtr - 1#16 = 0#16 then true else d.tcif }

/-- TC_HANDLER with the flag set: disable the stream and clear the flag (43_completion_handler.md R171). With the flag
unset: nothing (R172). -/
def DmaStream.completed (d : DmaStream) : DmaStream :=
  if d.tcif then { d with en := false, tcif := false } else d

/-- ENCODE arms the stream: its count is 16 and it is enabled (40_encoder.md R116). -/
def DmaStream.armed (d : DmaStream) : DmaStream := { d with ndtr := BitVec.ofNat 16 Config.bufLen, en := true }

/-- Motor `m`'s transfer-complete interrupt is pending (R32). -/
def State.pending (s : State) (m : Nat) : Bool :=
  (s.motor m).dma.tcif && (s.motor m).dma.tcie && (s.motor m).hreg

end Sys2Proof.Machine
end

