-- ==== Sys2Proof/Machine/CompletionHandler.lean ====
section
/-! DEFINITION. TC_HANDLER (43_completion_handler.md): as a host command, and taken as an interrupt (60_exceptions.md R227). -/

namespace Sys2Proof.Machine

/-- The handler's effect on motor `m` (R171, R172, R173). -/
def State.completeTransfer (s : State) (m : Nat) : State :=
  s.setMotor m { (s.motor m) with dma := (s.motor m).dma.completed }

/-- TC_HANDLER issued as a host command (R170): check 4, then the handler's effect. R170 and 95_test_vectors.md §5.1 call code
4's resource "handler tag", 60_exceptions.md R221's table "motor index": it is recorded as the motor index that came in as the
tag, DESIGN CHOICE (log 24). -/
def execTcHandler (tag : Nat) (s : State) : Result :=
  if ¬ tag < s.nm then s.faulting .badMotorIndex (some tag) (.motorIndex .tag)
  else .next (s.completeTransfer tag).advance

/-- Motor `m`'s interrupt taken: entry, the handler, and return, as one CPU step (60_exceptions.md R227). -/
def State.takeInterrupt (s : State) (m : Nat) : State :=
  (s.enterInterrupt.completeTransfer m).returnFromInterrupt

end Sys2Proof.Machine
end

