-- ==== Sys2Proof/Machine/Operands.lean ====
section
/-! DEFINITION. The pure functions: throttle to frame to tick buffer (40_encoder.md §1), the channel selector
(10_state.md R36), the resource table and the prescaler (42_configurator.md R155). -/

namespace Sys2Proof.Machine

/-- `VALUE` (R110): exact arithmetic, then the low 16 bits. -/
def value (throttle : Half) : Half :=
  if throttle.toNat ≤ Config.disarmMax then 0#16
  else BitVec.ofNat 16 ((throttle.toNat - Config.disarmMax) * 2 + Config.valueOffset)

/-- `PAYLOAD`: bits 10:0 of `VALUE` (R111). -/
def payload (throttle : Half) : BitVec 11 := (value throttle).extractLsb' 0 11

/-- `F12 = payload ++ t` (R112). -/
def f12 (p : BitVec 11) (t : Bool) : BitVec 12 := BitVec.setWidth 12 p <<< 1 ||| BitVec.setWidth 12 (BitVec.ofBool t)

/-- `CHECKSUM`: the XOR of the three nibbles (R114). -/
def checksum (f : BitVec 12) : BitVec 4 := f.extractLsb' 8 4 ^^^ f.extractLsb' 4 4 ^^^ f.extractLsb' 0 4

/-- `FRAME` of a payload and a telemetry bit: `f ++ CHECKSUM(f)` (R117). -/
def frameOfPayload (p : BitVec 11) (t : Bool) : Half :=
  BitVec.setWidth 16 (f12 p t) <<< 4 ||| BitVec.setWidth 16 (checksum (f12 p t))

/-- `FRAME_T` (R117). -/
def frameT (throttle : Half) (t : Bool) : Half := frameOfPayload (payload throttle) t

/-- `FRAME`, with the telemetry bit the encoder always uses (R113, R117). -/
def frame (throttle : Half) : Half := frameT throttle Config.telemetry

/-- `TICKS(frame)[j]` (R118): transmission position `j` carries frame bit `15 - j` (30_encoding.md R81). -/
def tick (fr : Half) (j : Nat) : Byte := if fr.getLsbD (15 - j) then Config.tick1 else Config.tick0

/-- `TICKS(frame)`, the 16 entries (R118). -/
def ticks (fr : Half) : List Byte := (List.range Config.bufLen).map (tick fr)

/-- `PAYLOAD` to tick buffer: the source's pure contract `encode(throttle) -> FrameBits[16]` (R122). -/
def frameBits (throttle : Half) : List Byte := ticks (frame throttle)

/-- The supported channel selectors (10_state.md R36, 30_encoding.md R90 d). -/
def Channel.ofSelector : Nat → Option Channel
  | 1 => some .ch1
  | 2 => some .ch2
  | 3 => some .ch3
  | 4 => some .ch4
  | _ => none

/-- The selector of a channel. -/
def Channel.selector : Channel → Nat
  | .ch1 => 1
  | .ch2 => 2
  | .ch3 => 3
  | .ch4 => 4

/-- `RT(m)`, where it is defined (00_scope.md R8). -/
def rtLookup : List (Nat × Binding) → Nat → Option Binding
  | [], _ => none
  | (k, b) :: rest, m => if k = m then some b else rtLookup rest m

/-- `CLKDIV` of a timer. -/
def clkDivLookup : List (TimerId × Nat) → Nat → TimerId → Nat
  | [], other, _ => other
  | (k, d) :: rest, other, t => if k = t then d else clkDivLookup rest other t


/-- `RT(m)` of a platform. -/
def platBinding (p : Platform) (m : Nat) : Option Binding := rtLookup p.rt m

/-- `CLKDIV(t)` of a platform. -/
def platClkDiv (p : Platform) (t : TimerId) : Nat := clkDivLookup p.clkDiv p.clkDivElse t

/-- `PSC(tid, V) = (SYSCLK_HZ / CLKDIV(tid)) / TICK_RATE(V) - 1`, with exact division and the quotient in 1..65536; none
where the parameters give no prescaler (42_configurator.md R155). -/
def prescaler (p : Platform) (t : TimerId) (v : Variant) : Option Half :=
  let d := platClkDiv p t * Config.tickRate v
  if p.sysclkHz % d = 0 ∧ 1 ≤ p.sysclkHz / d ∧ p.sysclkHz / d ≤ 65536 then
    some (BitVec.ofNat 16 (p.sysclkHz / d - 1))
  else none

end Sys2Proof.Machine
end

