-- ==== Sys2Proof/Machine/Registry.lean ====
section
/-! DEFINITION. The timer registry's internal operation GET_OR_CREATE (41_timer_registry.md). -/

namespace Sys2Proof.Machine

/-- The index of an identity: a linear search in index order (R140). -/
def timerIndex : List TimerId → TimerId → Option Nat
  | [], _ => none
  | t :: rest, tid => if t = tid then some 0 else (timerIndex rest tid).map (· + 1)

/-- What GET_OR_CREATE answers, with the registry after it (R140). -/
structure Lookup where
  index : Nat
  created : Bool
  ids : List TimerId
  deriving DecidableEq, Repr

/-- GET_OR_CREATE over a registry of capacity `nt`; none where it is full and the identity is new, code 2 (R140, R142). -/
def getOrCreate (nt : Nat) (ids : List TimerId) (tid : TimerId) : Option Lookup :=
  match timerIndex ids tid with
  | some i => some ⟨i, false, ids⟩
  | none => if ids.length < nt then some ⟨ids.length, true, ids ++ [tid]⟩ else none

end Sys2Proof.Machine
end

