-- ==== Sys2Proof/Machine/Configurator.lean ====
section
/-! DEFINITION. CONFIGURE (42_configurator.md). -/

namespace Sys2Proof.Machine

/-- "no m' with M.cfg[m'] ∧ M.stream[m'] = b.stream" fails (R150, R152). -/
def State.streamTaken (s : State) (st : StreamId) : Bool :=
  s.motors.any fun u => match u.chan.bound with
    | some bd => decide (bd.stream = st)
    | none => false

/-- "no m' with M.cfg[m'] ∧ REG.id[M.grp[m']] = b.timerId ∧ M.ch[m'] = b.channel" fails (R150, R152). -/
def State.channelTaken (s : State) (t : TimerId) (c : Channel) : Bool :=
  s.motors.any fun u => match u.chan.bound with
    | some bd => decide (s.reg[bd.grp]? = some t ∧ bd.ch = c)
    | none => false

/-- The motor is configured and `REG.id[M.grp]` holds no value: reading it is fault 11 (60_exceptions.md R222). -/
def State.unregistered (s : State) (m : Nat) : Bool :=
  match (s.motor m).chan.bound with
  | some bd => decide (s.reg[bd.grp]? = none)
  | none => false

/-- The first motor whose group has no registry entry. No run reaches a state with one. -/
def State.unregisteredMotor (s : State) : Option Nat := (List.range s.nm).find? s.unregistered

/-- The checks of R150 for codes 1, 9 and 8, in that order, with the read for code 8. -/
def State.bindingConflict (s : State) (m : Nat) (b : Binding) (c : Channel) : Option FaultRecord :=
  if (s.pin b.pin).owner ≠ .none then some ⟨.pinAlreadyOwned, some m, .pin b.pin⟩
  else if s.streamTaken b.stream then some ⟨.streamConflict, some m, .stream b.stream⟩
  else match s.unregisteredMotor with
    | some m' => some ⟨.unwrittenRead, some m', .registryEntry⟩
    | none =>
      if s.channelTaken b.timerId c then some ⟨.channelConflict, some m, .timerChannel b.timerId c⟩ else none

/-- TIMEBASE (R154). -/
def Group.timeBase (g : Group) (t : TimerId) (v : Variant) (psc : Half) : Group :=
  { g with tid := some t, variant := some v, psc := psc, arr := Config.motorBitLength, dir := .up, cnt := 0#16, tb := true }

/-- The first caller enables the main output and the auto-reload preload, and starts the counter (R156 b). -/
def Group.start (g : Group) : Group := { g with moe := true, arpe := true, cen := true }

/-- Every caller's own channel: PWM mode with preload, compare values 0 (R156 a), request enabled and in the list of
trigger sources (R158). -/
def Group.addChannel (g : Group) (c : Channel) : Group :=
  g.setChan c { g.chan c with src := true, dier := true, mode := .pwm, ocpe := true, ccr := 0#16, ccrp := 0#16 }

/-- The stream set-up (R157). -/
def streamSetup (m i : Nat) (c : Channel) : StreamSetup where
  dst := (i, c)
  src := m
  msize := .w8
  psize := .w16
  minc := true
  pinc := false
  circ := false
  prio := .high

/-- Motor `m`'s own fields after CONFIGURE (R157, R159). -/
def Motor.configured (u : Motor) (m i : Nat) (c : Channel) (b : Binding) : Motor where
  chan := { u.chan with bound := some ⟨i, c, b.stream, b.pin⟩ }
  dma := ⟨false, 0#16, false, true, some (streamSetup m i c)⟩
  hreg := true

/-- The effects of R150 for a motor of group `i`, whose fields are `g` but for the channel's, with the registry `ids`. -/
def State.bindMotor (s : State) (m : Nat) (b : Binding) (c : Channel) (i : Nat) (g : Group) (ids : List TimerId) : State :=
  ((({ s with reg := ids }.claimPin b.pin m b.af).setGroup i (g.addChannel c)).setMotor m
    ((s.motor m).configured m i c b)).advance

/-- The effects of R150 once its checks have passed, given GET_OR_CREATE's answer: the first caller sets the time base and
starts the counter, a later one sets only its own channel (R153, R154, R156). -/
def State.configureFrom (s : State) (m : Nat) (v : Variant) (b : Binding) (c : Channel) (r : Lookup) : Result :=
  if r.created then
    match prescaler s.plat b.timerId v with
    | none => .refused (.noPrescaler b.timerId v)
    | some psc => .next (s.bindMotor m b c r.index (((s.group r.index).timeBase b.timerId v psc).start) r.ids)
  else .next (s.bindMotor m b c r.index (s.group r.index) r.ids)

/-- CONFIGURE (R150): the checks 4, 5, 3, 1, 9, 8, 2, then the effects, in one step (R160). -/
def execConfigure (m : Nat) (v : Variant) (s : State) : Result :=
  if ¬ m < s.nm then s.faulting .badMotorIndex (some m) (.motorIndex .motorField)
  else if (s.motor m).chan.cfg then s.faulting .alreadyConfigured (some m) .motorChannel
  else match platBinding s.plat m with
    | none => .refused (.noBinding m)
    | some b =>
      match Channel.ofSelector b.channel with
      | none => s.faulting .unsupportedChannel (some m) (.selector b.channel)
      | some c =>
        match s.bindingConflict m b c with
        | some f => .next (s.raiseFault f)
        | none =>
          match getOrCreate s.nt s.reg b.timerId with
          | none => s.faulting .registryCapacityExceeded (some m) (.timer b.timerId)
          | some r => s.configureFrom m v b c r

end Sys2Proof.Machine
end

