-- ==== Sys2Proof/Machine/Encoder.lean ====
section
/-! DEFINITION. ENCODE (40_encoder.md §2). -/

namespace Sys2Proof.Machine

/-- Motor `m`'s buffer entries 0..n-1 written, in order, from a frame (R116, R119). -/
def State.writeTicks (s : State) (m : Nat) (fr : Half) : Nat → State
  | 0 => s
  | n + 1 => (s.writeTicks m fr n).writeTick m n (tick fr n)

/-- The effects of ENCODE in R119's order: buffer, last throttle, count, enable. -/
def State.encodeMotor (s : State) (m : Nat) (throttle : Half) : State :=
  ((s.writeTicks m (frame throttle) Config.bufLen).setMotor m
    { (s.motor m) with
      chan := { (s.motor m).chan with last := some throttle }
      dma := (s.motor m).dma.armed }).advance

/-- ENCODE (R116): the checks 4, 6, 7, then the effects, in one step. -/
def execEncode (m : Nat) (throttle : Half) (s : State) : Result :=
  if ¬ m < s.nm then s.faulting .badMotorIndex (some m) (.motorIndex .motorField)
  else match (s.motor m).chan.bound with
    | none => s.faulting .notConfigured (some m) .motorChannel
    | some bd =>
      if (s.motor m).dma.en then s.faulting .encodeWhileStreamEnabled (some m) (.stream bd.stream)
      else .next (s.encodeMotor m throttle)

end Sys2Proof.Machine
end

