-- ==== Sys2Proof/Machine/Dispatch.lean ====
section
/-! DEFINITION. One arm per command (30_encoding.md R88). -/

namespace Sys2Proof.Machine

def exec (i : Instr) (s : State) : Host.Outcome State Fault Refusal :=
  match i with
  | .configure m v => Sys2Proof.Machine.execConfigure m v s
  | .encode m throttle => Sys2Proof.Machine.execEncode m throttle s
  | .completeUpdateCycle => Sys2Proof.Machine.execCompleteUpdateCycle s
  | .tcHandler tag => Sys2Proof.Machine.execTcHandler tag s

end Sys2Proof.Machine
end

