-- ==== Sys2Proof/Machine/Streamer.lean ====
section
/-! DEFINITION. The timer step and the DMA transfer (45_streamer.md). -/

namespace Sys2Proof.Machine

/-- A channel at the update event: with preload enabled, the preload becomes active (R192). -/
def CompareUnit.update (x : CompareUnit) : CompareUnit := if x.ocpe then { x with ccr := x.ccrp } else x

/-- The counter's step: up by one, or at the period value back to 0 with an update event (R191, R192). -/
def Group.count (g : Group) : Group :=
  if g.arr ≤ g.cnt then { g with cnt := 0#16, chans := g.chans.map CompareUnit.update }
  else { g with cnt := g.cnt + 1#16 }

/-- `OUTPUT(i, c)` (R193). -/
def Group.output (g : Group) (x : CompareUnit) : Bool := g.moe && decide (g.cnt < x.ccr)

/-- The outputs of the PWM channels after the counter's change; another channel keeps its output (R191, R193). -/
def Group.drive (g : Group) : Group :=
  { g with chans := g.chans.map fun x => if x.mode = .pwm then { x with out := g.output x } else x }

/-- The group's own part of a timer step (R191). -/
def Group.tick (g : Group) : Group := g.count.drive

/-- After the counter's change, channel `c` has a compare event that raises a request (R191, R194). -/
def Group.requests (g : Group) (c : Channel) : Bool :=
  decide ((g.chan c).mode = .pwm ∧ g.cnt = (g.chan c).ccr) && (g.chan c).dier

/-- Motor channel bound to (group i, channel c). -/
def MotorChannel.boundTo (x : MotorChannel) (i : Nat) (c : Channel) : Bool :=
  match x.bound with
  | some bd => decide (bd.grp = i ∧ bd.ch = c)
  | none => false

/-- "the motor bound to (i, c)" (R196). -/
def State.servedMotor (s : State) (i : Nat) (c : Channel) : Option Nat :=
  (List.range s.nm).find? fun m => (s.motor m).chan.boundTo i c

/-- The next entry of motor `m`'s stream, `M.buf[m][16 - D.ndtr[m]]`, if it holds a value (R196). -/
def State.nextEntry (s : State) (m : Nat) : Option Byte :=
  if (s.motor m).dma.ndtr.toNat ≤ Config.bufLen then
    s.readTick m (Config.bufLen - (s.motor m).dma.ndtr.toNat)
  else none

/-- One transfer of motor `m`'s stream: the byte, zero-extended, into the compare register; the count down; at 0 the flag
(R196, R197, 20_memory.md R63). -/
def State.transfer (s : State) (i : Nat) (c : Channel) (m : Nat) (v : Byte) : State :=
  (s.writeCompare i c (BitVec.setWidth 16 v)).setMotor m { (s.motor m) with dma := (s.motor m).dma.transferred }

/-- DMA_REQUEST (R196): a transfer if the stream is enabled and its count is not 0, else the request is dropped. Reading an
entry that holds no value is fault 11 (60_exceptions.md R222). -/
def State.dmaRequest (s : State) (i : Nat) (c : Channel) : Except FaultRecord State :=
  match s.servedMotor i c with
  | none => .ok s
  | some m =>
    if (s.motor m).dma.en = true ∧ (s.motor m).dma.ndtr ≠ 0#16 then
      match s.nextEntry m with
      | none => .error ⟨.unwrittenRead, some m, .bufferEntry⟩
      | some v => .ok (s.transfer i c m v)
    else .ok s

/-- The requests of the channels listed, served one after another (R191, R203). -/
def State.serveChannels (s : State) (i : Nat) : List Channel → Except FaultRecord State
  | [] => .ok s
  | c :: rest =>
    if (s.group i).requests c then
      match s.dmaRequest i c with
      | .error f => .error f
      | .ok s' => s'.serveChannels i rest
    else s.serveChannels i rest

/-- TIMER_STEP(i) (R191): the counter, the outputs, then the requests. If a request meets fault 11 the step writes FAULT
alone (60_exceptions.md R220 b, R221). -/
def State.timerStep (s : State) (i : Nat) : State :=
  match (s.setGroup i (s.group i).tick).serveChannels i Channel.all with
  | .ok s' => s'
  | .error f => s.recordFault f

/-- What motor `m`'s pin carries: `T.out[M.grp[m]][M.ch[m]]` once CONFIGURE has set it to AF (R193); before, the line is
not the block's (70_reset_and_hazards.md R252). -/
def State.line (s : State) (m : Nat) : Option Bool :=
  match (s.motor m).chan.bound with
  | some bd => some ((s.group bd.grp).chan bd.ch).out
  | none => none

end Sys2Proof.Machine
end

