-- ==== Sys2Proof/Machine/Turns.lean ====
section
/-! DEFINITION. Who moves next, and what each agent's turn does (00_scope.md R11, 60_exceptions.md R225, R229). A turn of an
agent with no enabled step changes nothing. -/

namespace Sys2Proof.Machine

/-- `NM` is in 1..256 (60_exceptions.md R223 b). -/
def State.motorCountLegal (s : State) : Bool := decide (1 ≤ s.nm ∧ s.nm ≤ 256)

/-- The next turn, taken off the queue, or a free one when the queue is empty. -/
def State.takeTurn (s : State) : Turn × State :=
  match s.sched with
  | t :: rest => (t, { s with sched := rest })
  | [] => (Config.freeTurn s.choices, { s with choices := s.choices + 1 })

/-- The host command at `CPU.hpc`, if the program has one (10_state.md R22). -/
def State.hostWord (s : State) : Option Word := s.prog[s.cpu.hpc]?

/-- A host word: the command it decodes to, or fault 10 (30_encoding.md R89, 60_exceptions.md R221). -/
def State.runWord (s : State) (w : Word) : Result :=
  match decode w with
  | .ok i => exec i s
  | .error _ => s.faulting .illegalCommand none (.word w)

/-- The CPU's turn in the main context: the next host command, if there is one. -/
def State.hostTurn (s : State) : Result :=
  if s.inMain then
    match s.hostWord with
    | some w => s.runWord w
    | none => .next s
  else .next s

/-- The CPU may take an interrupt: no handler runs (60_exceptions.md R228), and it is between two host commands, not inside a
COMPLETE_UPDATE_CYCLE (10_state.md R22, 43_completion_handler.md R175, 60_exceptions.md R227, 92_eei_decisions.md D22).
44_batch_update.md R182 would admit one between two groups' steps: DESIGN CHOICE (log 6). -/
def State.admitsHandler (s : State) : Bool := s.inMain && decide (s.cpu.batch = 0)

/-- Motor `m`'s handler: taken if its interrupt is pending and the CPU may take one (60_exceptions.md R225). -/
def State.handlerTurn (s : State) (m : Nat) : Result :=
  if s.admitsHandler && s.pending m then .next (s.takeInterrupt m) else .next s

/-- The timer agent of group `i`: a tick if its counter runs (45_streamer.md R191). -/
def State.timerTurn (s : State) (i : Nat) : Result :=
  if (s.group i).cen then .next (s.timerStep i) else .next s

/-- One agent's turn. -/
def State.runTurn (s : State) : Turn → Result
  | .host => s.hostTurn
  | .handler m => s.handlerTurn m
  | .timer i => s.timerTurn i

/-- A program with `w` as its word number `k`; missing words before it are words of zeros. -/
def placeWord : List Word → Nat → Word → List Word
  | [], 0, w => [w]
  | [], k + 1, w => 0#32 :: placeWord [] k w
  | _ :: rest, 0, w => w :: rest
  | x :: rest, k + 1, w => x :: placeWord rest k w

end Sys2Proof.Machine
end

