-- ==== Sys2Proof/Machine/Step.lean ====
section
/-! DEFINITION. One step of the machine, and placing the word that the next step runs. -/

namespace Sys2Proof.Machine

/-- One step: a run with an illegal `NM` is refused (60_exceptions.md R223 b); a faulted machine is halted (R220 d); else the
agent whose turn it is moves (00_scope.md R11). -/
def step (s : State) : Host.Outcome State Fault Refusal :=
  if s.motorCountLegal then
    match s.fault with
    | some f => .fault (.halted f)
    | none => s.takeTurn.2.runTurn s.takeTurn.1
  else .refused (.motorCount s.nm)

/-- The host supplies the word as the next command and gives the CPU the next turn, in the main context and with no fault
recorded. -/
def State.withFetchWord (s : State) (nbits w : Nat) : State :=
  { s with
    prog := placeWord s.prog s.cpu.hpc (BitVec.ofNat 32 (w % 2 ^ nbits))
    cpu := { s.cpu with saved := none }
    fault := none
    sched := .host :: s.sched }

end Sys2Proof.Machine
end

