-- ==== Sys2Proof/Safety.lean ====
section
/-! DEFINITION. The terms claims use: the invariant of every run (10_state.md R28 and what the rules keep beside it), the
end of a run and its observation (70_reset_and_hazards.md R271), and the frames. -/

namespace Sys2Proof.Machine

/-! ### The invariant -/

/-- A registered group: its time base is set, once, and it counts (10_state.md R28). -/
structure Group.Running (g : Group) : Prop where
  tb : g.tb = true
  variant : g.variant ≠ none
  arr : g.arr = 39#16
  cnt : g.cnt ≤ 39#16
  cen : g.cen = true
  arpe : g.arpe = true
  moe : g.moe = true

/-- A compare value the block can hold: 0 from CONFIGURE, 14 or 29 from a tick buffer. -/
def compareValue (v : Half) : Prop := v = 0#16 ∨ v = 14#16 ∨ v = 29#16

/-- A configured motor's channel (42_configurator.md R156, R158). -/
structure CompareUnit.Active (x : CompareUnit) : Prop where
  src : x.src = true
  dier : x.dier = true
  mode : x.mode = .pwm
  ocpe : x.ocpe = true
  ccr : compareValue x.ccr
  ccrp : compareValue x.ccrp

/-- A stream's count, enable and flag agree (10_state.md R29, R30; 40_encoder.md R116): the count is at most 16, a disabled
stream has count 0, and the flag is up exactly while an enabled stream's count is 0. -/
structure DmaStream.Consistent (d : DmaStream) : Prop where
  count : d.ndtr ≤ 16#16
  idle : d.en = false → d.ndtr = 0#16
  flag : d.tcif = true ↔ d.en = true ∧ d.ndtr = 0#16

/-- What every step keeps, from reset on. -/
structure Inv (s : State) : Prop where
  mem_canonical : s.mem.wf
  pins_canonical : pinsWf s.pins
  reg_fits : s.reg.length ≤ s.nt
  reg_distinct : s.reg.Nodup
  batch_in_range : s.cpu.batch = 0 ∨ s.cpu.batch < s.reg.length
  batch_command : s.cpu.batch ≠ 0 → ∃ w, s.prog[s.cpu.hpc]? = some w ∧ decode w = .ok .completeUpdateCycle
  main_context : s.cpu.saved = none
  group_fresh : ∀ i, s.reg.length ≤ i → s.group i = Group.reset
  group_running : ∀ i, i < s.reg.length → (s.group i).Running
  group_timer : ∀ i, i < s.reg.length → (s.group i).tid = s.reg[i]?
  channel_fresh : ∀ i c, (∀ m, (s.motor m).chan.boundTo i c = false) → (s.group i).chan c = CompareUnit.reset
  channel_active : ∀ i c m, (s.motor m).chan.boundTo i c = true → ((s.group i).chan c).Active
  bound_registered : ∀ m bd, (s.motor m).chan.bound = some bd → bd.grp < s.reg.length
  one_motor_per_channel : ∀ m m' bd bd', (s.motor m).chan.bound = some bd → (s.motor m').chan.bound = some bd' →
    bd.grp = bd'.grp → bd.ch = bd'.ch → m = m'
  one_motor_per_stream : ∀ m m' bd bd', (s.motor m).chan.bound = some bd → (s.motor m').chan.bound = some bd' →
    bd.stream = bd'.stream → m = m'
  pin_owned : ∀ m bd, (s.motor m).chan.bound = some bd → (s.pin bd.pin).owner = .motor m
  motor_fresh : ∀ m, (s.motor m).chan.bound = none → s.motor m = Motor.reset
  motor_ready : ∀ m bd, (s.motor m).chan.bound = some bd → (s.motor m).dma.tcie = true ∧ (s.motor m).hreg = true ∧
    (s.motor m).dma.setup = some (streamSetup m bd.grp bd.ch)
  stream_consistent : ∀ m, (s.motor m).dma.Consistent
  buffer_written : ∀ m k, (s.motor m).dma.en = true → k < 16 →
    s.readTick m k = some 14#8 ∨ s.readTick m k = some 29#8

/-! ### The end of a run (70_reset_and_hazards.md R271) -/

/-- A quiescent state: all commands done, no fault, every stream disabled with its flag clear (R271). -/
structure Quiescent (s : State) : Prop where
  done : s.cpu.hpc = s.prog.length
  no_fault : s.fault = none
  streams : ∀ m, m < s.nm → (s.motor m).dma.en = false ∧ (s.motor m).dma.tcif = false

/-- A group without `T.cnt`, `T.out` and `T.ccr`. -/
def Group.observed (g : Group) : Group :=
  { g with cnt := 0#16, chans := g.chans.map fun x => { x with ccr := 0#16, out := false } }

/-- The observed end state: "the quiescent state with `T.cnt`, `T.out` and `T.ccr` left out" (R271), and without the
model's own schedule. -/
def State.observed (s : State) : State := { s with groups := s.groups.map Group.observed, sched := [], choices := 0 }

/-! ### Frames -/

/-- The parameters, the program, the schedule and the numbers of motors and groups are the same. -/
structure SameSetting (s t : State) : Prop where
  plat : t.plat = s.plat
  prog : t.prog = s.prog
  sched : t.sched = s.sched
  choices : t.choices = s.choices
  nm : t.nm = s.nm
  nt : t.nt = s.nt

/-- The CPU is past one command and otherwise the same. -/
def PastOneCommand (s t : State) : Prop := t.cpu = { s.cpu with hpc := s.cpu.hpc + 1 }

/-- Every motor but `m` has the same fields. -/
def SameMotorsBut (m : Nat) (s t : State) : Prop := ∀ m', m' ≠ m → t.motor m' = s.motor m'

/-- Every group but `i` has the same fields. -/
def SameGroupsBut (i : Nat) (s t : State) : Prop := ∀ i', i' ≠ i → t.group i' = s.group i'

/-- Every motor, and every group, has the same fields. -/
structure SameUnits (s t : State) : Prop where
  motors : ∀ m, t.motor m = s.motor m
  groups : ∀ i, t.group i = s.group i

/-- The registry and every pin are the same. -/
structure SameRegistryAndPins (s t : State) : Prop where
  reg : t.reg = s.reg
  pins : ∀ p, t.pin p = s.pin p

/-- Every byte of memory reads the same. -/
def SameMemory (s t : State) : Prop := ∀ a, t.mem.read a = s.mem.read a

/-- A group's fields that only its first CONFIGURE writes (10_state.md R27). -/
def SameTimeBase (g h : Group) : Prop :=
  h.tid = g.tid ∧ h.tb = g.tb ∧ h.variant = g.variant ∧ h.psc = g.psc ∧ h.arr = g.arr ∧ h.dir = g.dir ∧
  h.cen = g.cen ∧ h.arpe = g.arpe ∧ h.moe = g.moe

/-- The effect of a command that raises a fault: the record is set if FAULT was NONE, the CPU is past the command, and
everything else is as before (60_exceptions.md R220 a to c). -/
structure RaisedFault (f : FaultRecord) (s t : State) : Prop where
  setting : SameSetting s t
  past : PastOneCommand s t
  units : SameUnits s t
  rest : SameRegistryAndPins s t
  memory : SameMemory s t
  recorded : t.fault = if s.fault = none then some f else s.fault

/-- The word at `CPU.hpc` is command `i`, and the CPU has the next turn in a machine that may run: in the main context,
with no fault and a legal `NM`. -/
structure RunsCommand (s : State) (i : Instr) (rest : List Turn) : Prop where
  motor_count : 1 ≤ s.nm ∧ s.nm ≤ 256
  no_fault : s.fault = none
  main : s.cpu.saved = none
  turn : s.sched = .host :: rest
  word : ∃ w, s.prog[s.cpu.hpc]? = some w ∧ decode w = .ok i

/-- The CPU is in a machine that may run, and `turn` is the next turn. -/
structure TakesTurn (s : State) (turn : Turn) (rest : List Turn) : Prop where
  motor_count : 1 ≤ s.nm ∧ s.nm ≤ 256
  no_fault : s.fault = none
  turn : s.sched = turn :: rest

/-- CONFIGURE's checks 4, 5, 3, 1, 9 and 8 pass for motor `m` with binding `b` on channel `c`, and every configured motor's
group is registered (42_configurator.md R150). -/
structure ConfigureReady (s : State) (m : Nat) (b : Binding) (c : Channel) : Prop where
  in_range : m < s.nm
  unconfigured : (s.motor m).chan.bound = none
  binding : platBinding s.plat m = some b
  selector : b.channel = c.selector
  pin_free : (s.pin b.pin).owner = .none
  stream_free : ∀ m' bd, m' < s.nm → (s.motor m').chan.bound = some bd → bd.stream ≠ b.stream
  registered : ∀ m' bd, m' < s.nm → (s.motor m').chan.bound = some bd → bd.grp < s.reg.length
  channel_free : ∀ m' bd, m' < s.nm → (s.motor m').chan.bound = some bd → ¬(s.reg[bd.grp]? = some b.timerId ∧ bd.ch = c)

/-- What CONFIGURE of motor `m` does whether or not its timer is new: everything but the registry and the time base of
group `i` (42_configurator.md R150, R151, R156 a, R157 to R159, R163). -/
structure MotorConfigured (s t : State) (m : Nat) (b : Binding) (c : Channel) (i : Nat) : Prop where
  setting : SameSetting s t
  past : PastOneCommand s t
  fault : t.fault = s.fault
  memory : SameMemory s t
  motors : SameMotorsBut m s t
  groups : SameGroupsBut i s t
  pins : ∀ p, t.pin p = if p = b.pin then ⟨.motor m, .af b.af⟩ else s.pin p
  chan : (t.motor m).chan = { (s.motor m).chan with bound := some ⟨i, c, b.stream, b.pin⟩ }
  dma : (t.motor m).dma = ⟨false, 0#16, false, true, some ⟨(i, c), m, .w8, .w16, true, false, false, .high⟩⟩
  hreg : (t.motor m).hreg = true
  channel : (t.group i).chan c = ⟨true, true, .pwm, true, 0#16, 0#16, ((s.group i).chan c).out⟩
  siblings : ∀ d, d ≠ c → (t.group i).chan d = (s.group i).chan d

/-- Motor `m`'s interrupt has been taken and left again: its stream is disabled with its flag clear, the CPU is where it was,
and nothing else changed (43_completion_handler.md R171, 60_exceptions.md R227). -/
structure InterruptTaken (m : Nat) (s t : State) : Prop where
  setting : SameSetting s t
  cpu : t.cpu = s.cpu
  rest : SameRegistryAndPins s t
  memory : SameMemory s t
  fault : t.fault = none
  motors : SameMotorsBut m s t
  groups : ∀ i, t.group i = s.group i
  motor : t.motor m = { (s.motor m) with dma := { (s.motor m).dma with en := false, tcif := false } }
  cleared : t.pending m = false

/-- Every turn comes again and again: the fairness of R204 and R225, of a sequence of turns. -/
def FairTurns (turns : Nat → Turn) : Prop := ∀ turn n, ∃ k, n ≤ k ∧ turns k = turn

/-- `n` steps of the machine, stopping at the first fault or refusal. -/
def runSteps (n : Nat) (s : State) : Result := Host.Core.run Sys2Proof.core n s

end Sys2Proof.Machine
end

