-- ==== Sys2Proof/Certificates/Slice0/Obligations.lean ====
section
/-! DEFINITION. The statements for the provers, from the numbered rules of spec/. -/

open Sys2Proof Sys2Proof.Machine

/-! ### Encoding -/

/-- Decoding a well-formed command's word gives the command back, with every operand (30_encoding.md R87, R88). -/
def Obligations.DecodeOfEncodeIsTheCommand : Prop :=
  ∀ i : Instr, i.wellFormed = true → decode (encode i) = .ok i

/-- A word that decodes is the word of its command, which is well formed: each word has one meaning (30_encoding.md §3). -/
def Obligations.EncodeOfDecodeIsTheWord : Prop :=
  ∀ (w : Word) (i : Instr), decode w = .ok i → encode i = w ∧ i.wellFormed = true

/-- R89: which words decode, that they have the bits of their row, that a word of no row is ILLEGAL, and that executing
ILLEGAL raises code 10. -/
def Obligations.DecodeFollowsTheOpcodeTable : Prop :=
  (∀ w : Word, (∃ i, decode w = .ok i) ↔
    w.extractLsb' 24 4 = 0#4 ∧
      (w.extractLsb' 28 4 = 1#4 ∧ w.extractLsb' 1 15 = 0#15 ∨
       w.extractLsb' 28 4 = 2#4 ∨
       w.extractLsb' 28 4 = 3#4 ∧ w.extractLsb' 16 8 = 0#8 ∧ w.extractLsb' 0 16 = 0#16 ∨
       w.extractLsb' 28 4 = 4#4 ∧ w.extractLsb' 0 16 = 0#16)) ∧
  (∀ (w : Word) (i : Instr), decode w = .ok i → (opcodeRow i).covers w = true) ∧
  (∀ w : Word, (∃ i, decode w = .ok i) ↔
    (w &&& 0xFF00FFFE#32 = 0x10000000#32 ∨ w &&& 0xFF000000#32 = 0x20000000#32 ∨
     w &&& 0xFFFFFFFF#32 = 0x30000000#32 ∨ w &&& 0xFF00FFFF#32 = 0x40000000#32)) ∧
  (∀ (w : Word) (s : State), (¬∃ i, decode w = .ok i) →
    s.runWord w = .next (s.raiseFault ⟨.illegalCommand, none, .word w⟩))

/-- Words written out from R88's patterns decode to the commands they stand for (95_test_vectors.md §5.4). -/
def Obligations.WrittenOutWordsDecode : Prop :=
  decode 0b00010000000000000000000000000000#32 = .ok (.configure 0 .standard) ∧
  decode 0b00010000111111110000000000000001#32 = .ok (.configure 255 .fast) ∧
  decode 0b00100000000000000000010111011100#32 = .ok (.encode 0 1500#16) ∧
  decode 0b00100000000000011111111111111111#32 = .ok (.encode 1 65535#16) ∧
  decode 0b00110000000000000000000000000000#32 = .ok .completeUpdateCycle ∧
  decode 0b01000000000000110000000000000000#32 = .ok (.tcHandler 3)

/-! ### The step -/

/-- On the CPU's turn, a step runs the command the word at `CPU.hpc` decodes to; around it, only the turn is taken off the
queue (the model's own field, log 2). -/
def Obligations.StepRunsTheDecodedCommand : Prop :=
  ∀ (s : State) (i : Instr) (rest : List Turn), RunsCommand s i rest → step s = exec i { s with sched := rest }

/-- On the CPU's turn, a word that is ILLEGAL raises code 10 with the word and no motor (30_encoding.md R90, R221). -/
def Obligations.IllegalWordRaisesCodeTen : Prop :=
  ∀ (s : State) (w : Word) (e : Illegal) (rest : List Turn), TakesTurn s .host rest → s.cpu.saved = none →
    s.prog[s.cpu.hpc]? = some w → decode w = .error e →
    ∃ t, step s = .next t ∧ RaisedFault ⟨.illegalCommand, none, .word w⟩ { s with sched := rest } t

/-- R220: raising a fault records it if FAULT is NONE, leaves every other field, advances `CPU.hpc`, and halts the machine
whatever turn is next; a faulted state is no successful end. -/
def Obligations.RaisingAFaultRecordsAdvancesAndHalts : Prop :=
  ∀ (s : State) (f : FaultRecord),
    RaisedFault f s (s.raiseFault f) ∧
    (1 ≤ s.nm ∧ s.nm ≤ 256 → step (s.raiseFault f) = .fault (.halted (s.fault.getD f))) ∧
    ¬ Quiescent (s.raiseFault f)

/-- R34: FAULT is NONE at reset and, once set, never changed: no step leaves a faulted state, and no command, handler or
timer step overwrites the record. -/
def Obligations.FaultRecordNeverChanges : Prop :=
  (∀ (nm nt : Nat) (p : Platform), (State.resetWith nm nt p).fault = none) ∧
  (∀ s t : State, step s = .next t → s.fault = none) ∧
  (∀ (s t : State) (f : FaultRecord) (i : Instr), s.fault = some f → exec i s = .next t → t.fault = some f) ∧
  (∀ (s : State) (f : FaultRecord) (m : Nat), s.fault = some f → (s.takeInterrupt m).fault = some f) ∧
  (∀ (s : State) (f : FaultRecord) (i : Nat), s.fault = some f → (s.timerStep i).fault = some f)

/-- The three refusals of R223 a to c: no prescaler for a new timer (the model's reading for later callers is log 7), `NM`
outside 1..256, and no binding. -/
def Obligations.RunsWithoutMeaningAreRefused : Prop :=
  (∀ (s : State) (m : Nat) (v : Variant) (b : Binding) (c : Channel), ConfigureReady s m b c → b.timerId ∉ s.reg →
    s.reg.length < s.nt → prescaler s.plat b.timerId v = none →
    exec (.configure m v) s = .refused (.noPrescaler b.timerId v)) ∧
  (∀ s : State, ¬(1 ≤ s.nm ∧ s.nm ≤ 256) → step s = .refused (.motorCount s.nm)) ∧
  (∀ (s : State) (m : Nat) (v : Variant), m < s.nm → (s.motor m).chan.bound = none → platBinding s.plat m = none →
    exec (.configure m v) s = .refused (.noBinding m))

/-! ### Reset -/

/-- R250: every field's reset value, for every number of motors and timers and every platform. -/
def Obligations.ResetValues : Prop :=
  ∀ (nm nt : Nat) (p : Platform),
    (State.resetWith nm nt p).cpu.hpc = 0 ∧ (State.resetWith nm nt p).fault = none ∧
    (∀ m, ((State.resetWith nm nt p).motor m).chan = ⟨none, none⟩ ∧ ((State.resetWith nm nt p).motor m).chan.cfg = false ∧
      ((State.resetWith nm nt p).motor m).dma = ⟨false, 0#16, false, false, none⟩ ∧
      ((State.resetWith nm nt p).motor m).hreg = false) ∧
    (∀ m k, (State.resetWith nm nt p).readTick m k = none) ∧
    (State.resetWith nm nt p).reg = [] ∧
    (∀ i, ((State.resetWith nm nt p).group i).tid = none ∧ ((State.resetWith nm nt p).group i).variant = none ∧
      ((State.resetWith nm nt p).group i).tb = false ∧ ((State.resetWith nm nt p).group i).cen = false ∧
      ((State.resetWith nm nt p).group i).arpe = false ∧ ((State.resetWith nm nt p).group i).moe = false ∧
      ((State.resetWith nm nt p).group i).psc = 0#16 ∧ ((State.resetWith nm nt p).group i).arr = 0#16 ∧
      ((State.resetWith nm nt p).group i).cnt = 0#16 ∧ ((State.resetWith nm nt p).group i).dir = .up ∧
      ∀ c, ((State.resetWith nm nt p).group i).chan c = ⟨false, false, .off, false, 0#16, 0#16, false⟩) ∧
    (∀ q, (State.resetWith nm nt p).pin q = ⟨if q ∈ p.pinOwners0 then .other else .none, .unchanged⟩)

/-- After reset no interrupt is pending and no timer agent is enabled, so a turn of either changes nothing, and the CPU is
in the main context (70_reset_and_hazards.md R251). -/
def Obligations.ResetEnablesNoInterruptOrTimer : Prop :=
  ∀ (nm nt : Nat) (p : Platform) (k : Nat),
    (State.resetWith nm nt p).pending k = false ∧
    (State.resetWith nm nt p).runTurn (.handler k) = .next (State.resetWith nm nt p) ∧
    (State.resetWith nm nt p).runTurn (.timer k) = .next (State.resetWith nm nt p) ∧
    (State.resetWith nm nt p).cpu.saved = none

/-- The invariant holds at reset, on every platform. -/
def Obligations.ResetMeetsTheInvariant : Prop :=
  ∀ (nm nt : Nat) (p : Platform), Inv (State.resetWith nm nt p)

/-! ### The invariant -/

/-- Every step from a state that meets the invariant gives a state that meets it: memory and pins canonical, R28's group
invariants, one motor per channel and stream, a COMPLETE_UPDATE_CYCLE in progress at its own word, buffers of enabled streams
written, flag and count in step. -/
def Obligations.StepKeepsTheInvariant : Prop :=
  ∀ s t : State, Inv s → step s = .next t → Inv t

/-- Code 11 is unreachable: no step from a state that meets the invariant records it (60_exceptions.md R222). -/
def Obligations.UnwrittenReadIsUnreachable : Prop :=
  ∀ (s t : State) (f : FaultRecord), Inv s → step s = .next t → t.fault = some f → f.code ≠ .unwrittenRead

/-! ### The encoder's functions -/

/-- R110, with its corner cases. -/
def Obligations.ValueOfThrottle : Prop :=
  (∀ th : Half, th.toNat ≤ 1000 → value th = 0#16) ∧
  (∀ th : Half, 1000 < th.toNat → (value th).toNat = ((th.toNat - 1000) * 2 + 48) % 65536) ∧
  value 1001#16 = 50#16 ∧ value 1999#16 = 2046#16 ∧ value 2000#16 = 2048#16 ∧ value 65535#16 = 63582#16

/-- The payload clips to 0 below 1001, rises by 2 over 1001..1999 from 50 to 2046, wraps at 2000, repeats every 1024
throttles from 2025 on, and takes exactly the even values (40_encoder.md R111, R115). -/
def Obligations.PayloadClipsRisesAndWraps : Prop :=
  (∀ th : Half, th.toNat ≤ 1000 → payload th = 0#11) ∧
  payload 1001#16 = 50#11 ∧ payload 1999#16 = 2046#11 ∧
  (∀ th : Half, 1001 ≤ th.toNat → th.toNat < 1999 → (payload (th + 1#16)).toNat = (payload th).toNat + 2) ∧
  (∀ th : Half, 2000 ≤ th.toNat → th.toNat ≤ 2024 → (payload th).toNat = (th.toNat - 2000) * 2) ∧
  (∀ th : Half, 2025 ≤ th.toNat → payload th = payload (th - 1024#16)) ∧
  (∀ p : BitVec 11, (∃ th : Half, payload th = p) ↔ p.toNat % 2 = 0) ∧
  (∀ th : Half, payload th = 48#11 → 2024 ≤ th.toNat)

/-- R112 and R114: where payload and telemetry stand in F12, and the checksum of F12, nibble by nibble and bit by bit. -/
def Obligations.ChecksumBitByBit : Prop :=
  (∀ (p : BitVec 11) (t : Bool), (f12 p t).extractLsb' 1 11 = p ∧ (f12 p t).getLsbD 0 = t) ∧
  (∀ f : BitVec 12, checksum f = f.extractLsb' 8 4 ^^^ f.extractLsb' 4 4 ^^^ f.extractLsb' 0 4) ∧
  (∀ (f : BitVec 12) (i : Nat), i < 4 →
    (checksum f).getLsbD i = (f.getLsbD (i + 8) ^^ f.getLsbD (i + 4) ^^ f.getLsbD i))

/-- The checksum's bits in terms of payload and telemetry, and the buffer entry that carries each: the inference R114 marks as
the spec's own ("derived: from rule R112"; 40_encoder.md §1). -/
def Obligations.ChecksumOfPayloadAndTelemetry : Prop :=
  (∀ (p : BitVec 11) (t : Bool),
    (checksum (f12 p t)).getLsbD 3 = (p.getLsbD 10 ^^ p.getLsbD 6 ^^ p.getLsbD 2) ∧
    (checksum (f12 p t)).getLsbD 2 = (p.getLsbD 9 ^^ p.getLsbD 5 ^^ p.getLsbD 1) ∧
    (checksum (f12 p t)).getLsbD 1 = (p.getLsbD 8 ^^ p.getLsbD 4 ^^ p.getLsbD 0) ∧
    (checksum (f12 p t)).getLsbD 0 = (p.getLsbD 7 ^^ p.getLsbD 3 ^^ t)) ∧
  (∀ (p : BitVec 11) (t : Bool) (i : Nat), i < 4 →
    (ticks (frameOfPayload p t))[15 - i]? = some (if (checksum (f12 p t)).getLsbD i = true then 29#8 else 14#8))

/-- R80: the fields of the frame ENCODE builds. -/
def Obligations.FrameFields : Prop :=
  ∀ th : Half,
    (frame th).extractLsb' 5 11 = payload th ∧
    (frame th).getLsbD 4 = false ∧
    (frame th).extractLsb' 4 12 = f12 (payload th) false ∧
    (frame th).extractLsb' 0 4 =
      (frame th).extractLsb' 12 4 ^^^ (frame th).extractLsb' 8 4 ^^^ (frame th).extractLsb' 4 4

/-- A tick buffer has 16 entries; entry `j` is 29 or 14 as frame bit `15 - j` is 1 or 0; and it has as many 29s as the frame
has 1 bits (40_encoder.md R118). -/
def Obligations.TickBufferFollowsTheFrame : Prop :=
  ∀ fr : Half, (ticks fr).length = 16 ∧
    (∀ j, j < 16 → (ticks fr)[j]? = some (if fr.getLsbD (15 - j) = true then 29#8 else 14#8)) ∧
    (ticks fr).count 29#8 = ((List.range 16).filter fun k => fr.getLsbD k).length

/-! ### ENCODE -/

/-- R116: the checks in order, the effects with their frame, and its corner cases and example. ENCODE of a configured motor
whose stream is disabled completes. -/
def Obligations.EncodeChecksThenArmsTheMotor : Prop :=
  ∀ (s : State) (m : Nat) (th : Half),
    (¬ m < s.nm → exec (.encode m th) s = .next (s.raiseFault ⟨.badMotorIndex, some m, .motorIndex .motorField⟩)) ∧
    (m < s.nm → (s.motor m).chan.bound = none →
      exec (.encode m th) s = .next (s.raiseFault ⟨.notConfigured, some m, .motorChannel⟩)) ∧
    (∀ bd, m < s.nm → (s.motor m).chan.bound = some bd → (s.motor m).dma.en = true →
      exec (.encode m th) s = .next (s.raiseFault ⟨.encodeWhileStreamEnabled, some m, .stream bd.stream⟩)) ∧
    (∀ bd, m < s.nm → (s.motor m).chan.bound = some bd → (s.motor m).dma.en = false →
      ∃ t, exec (.encode m th) s = .next t ∧
        SameSetting s t ∧ PastOneCommand s t ∧ SameRegistryAndPins s t ∧ t.fault = s.fault ∧
        SameMotorsBut m s t ∧ (∀ i, t.group i = s.group i) ∧
        t.motor m = { (s.motor m) with
          chan := { (s.motor m).chan with last := some th }
          dma := { (s.motor m).dma with ndtr := 16#16, en := true } } ∧
        (∀ j, j < 16 → t.readTick m j = some (if (frame th).getLsbD (15 - j) = true then 29#8 else 14#8)) ∧
        (∀ a, (∀ j, j < 16 → a ≠ bufAddr m j) → t.mem.read a = s.mem.read a)) ∧
    (th.toNat ≤ 1000 ∨ th = 2000#16 → frame th = 0#16) ∧
    ticks (frame 1500#16) =
      [29#8, 14#8, 14#8, 14#8, 14#8, 14#8, 29#8, 29#8, 14#8, 14#8, 14#8, 14#8, 29#8, 14#8, 29#8, 29#8]

/-- A late handler cannot meet a new frame: while a motor's flag is up, ENCODE of it raises code 7 (60_exceptions.md R230). -/
def Obligations.EncodeBeforeTheHandlerFaults : Prop :=
  ∀ (s : State) (m : Nat) (th : Half), Inv s → (s.motor m).dma.tcif = true →
    ∃ bd, (s.motor m).chan.bound = some bd ∧
      exec (.encode m th) s = .next (s.raiseFault ⟨.encodeWhileStreamEnabled, some m, .stream bd.stream⟩)

/-! ### CONFIGURE and the registry -/

/-- CONFIGURE's checks in the order 4, 5, 3, 1, 9, 8, 2, each with what it records (42_configurator.md R150; the read that
could meet code 11 is ruled out as log 9 says). That a failed check faults although the parameters give no prescaler, which
R155 and R223 a read by themselves refuse, is the model's choice (log 7), and so is that codes 4 and 5 need no row of the
resource table (log 21). -/
def Obligations.ConfigureReportsTheFirstFailedCheck : Prop :=
  ∀ (s : State) (m : Nat) (v : Variant),
    (¬ m < s.nm → exec (.configure m v) s = .next (s.raiseFault ⟨.badMotorIndex, some m, .motorIndex .motorField⟩)) ∧
    (∀ bd, m < s.nm → (s.motor m).chan.bound = some bd →
      exec (.configure m v) s = .next (s.raiseFault ⟨.alreadyConfigured, some m, .motorChannel⟩)) ∧
    (∀ b, m < s.nm → (s.motor m).chan.bound = none → platBinding s.plat m = some b →
      (¬(1 ≤ b.channel ∧ b.channel ≤ 4) →
        exec (.configure m v) s = .next (s.raiseFault ⟨.unsupportedChannel, some m, .selector b.channel⟩)) ∧
      (∀ c : Channel, b.channel = c.selector →
        ((s.pin b.pin).owner ≠ .none →
          exec (.configure m v) s = .next (s.raiseFault ⟨.pinAlreadyOwned, some m, .pin b.pin⟩)) ∧
        (∀ m' bd, (s.pin b.pin).owner = .none → m' < s.nm → (s.motor m').chan.bound = some bd →
          bd.stream = b.stream →
          exec (.configure m v) s = .next (s.raiseFault ⟨.streamConflict, some m, .stream b.stream⟩)) ∧
        (∀ m' bd, (s.pin b.pin).owner = .none →
          (∀ n bn, n < s.nm → (s.motor n).chan.bound = some bn → bn.stream ≠ b.stream ∧ bn.grp < s.reg.length) →
          m' < s.nm → (s.motor m').chan.bound = some bd → s.reg[bd.grp]? = some b.timerId → bd.ch = c →
          exec (.configure m v) s =
            .next (s.raiseFault ⟨.channelConflict, some m, .timerChannel b.timerId c⟩)) ∧
        (ConfigureReady s m b c → b.timerId ∉ s.reg → s.nt ≤ s.reg.length →
          exec (.configure m v) s = .next (s.raiseFault ⟨.registryCapacityExceeded, some m, .timer b.timerId⟩))))

/-- The first motor of its timer: CONFIGURE registers the timer, sets the group's time base and starts its counter, and
configures the motor (42_configurator.md R150, R154 to R159). -/
def Obligations.ConfigureFirstMotorOfItsTimer : Prop :=
  ∀ (s : State) (m : Nat) (v : Variant) (b : Binding) (c : Channel) (psc : Half),
    ConfigureReady s m b c → b.timerId ∉ s.reg → s.reg.length < s.nt → prescaler s.plat b.timerId v = some psc →
    ∃ t, exec (.configure m v) s = .next t ∧ MotorConfigured s t m b c s.reg.length ∧ t.reg = s.reg ++ [b.timerId] ∧
      (t.group s.reg.length).tid = some b.timerId ∧ (t.group s.reg.length).variant = some v ∧
      (t.group s.reg.length).psc = psc ∧ (t.group s.reg.length).arr = 39#16 ∧ (t.group s.reg.length).dir = .up ∧
      (t.group s.reg.length).cnt = 0#16 ∧ (t.group s.reg.length).tb = true ∧ (t.group s.reg.length).moe = true ∧
      (t.group s.reg.length).arpe = true ∧ (t.group s.reg.length).cen = true

/-- A later motor of a registered timer: whatever its variant, CONFIGURE leaves the registry, the group's time base and its
counter, and configures the motor (42_configurator.md R161, R163, R164). That it completes although its own variant has no
prescaler, where R155 and 60_exceptions.md R223 a read by themselves refuse it, is the model's choice (log 7). -/
def Obligations.ConfigureLaterMotorOfItsTimer : Prop :=
  ∀ (s : State) (m : Nat) (v : Variant) (b : Binding) (c : Channel) (i : Nat),
    ConfigureReady s m b c → s.reg.Nodup → s.reg.length ≤ s.nt → s.reg[i]? = some b.timerId →
    ∃ t, exec (.configure m v) s = .next t ∧ MotorConfigured s t m b c i ∧ t.reg = s.reg ∧
      SameTimeBase (s.group i) (t.group i) ∧ (t.group i).cnt = (s.group i).cnt

/-- A prescaler is the one value with which the timer ticks at the variant's rate, `SYSCLK_HZ = CLKDIV × TICK_RATE × (PSC+1)`,
and there is none where no 16-bit value does (42_configurator.md R155). -/
def Obligations.PrescalerGivesTheTickRate : Prop :=
  (∀ (p : Platform) (t : TimerId) (v : Variant) (psc : Half), 0 < platClkDiv p t →
    (prescaler p t v = some psc ↔ p.sysclkHz = platClkDiv p t * Config.tickRate v * (psc.toNat + 1))) ∧
  Config.tickRate .standard = 6000000 ∧ Config.tickRate .fast = 24000000

/-- GET_OR_CREATE: where it answers, the index names the identity; it is created exactly when new, and then appended; a
second call answers the same index; and it has no answer exactly when the registry is full (41_timer_registry.md R140,
R143). -/
def Obligations.GetOrCreateLaws : Prop :=
  ∀ (nt : Nat) (ids : List TimerId) (t : TimerId),
    (getOrCreate nt ids t = none ↔ t ∉ ids ∧ nt ≤ ids.length) ∧
    (∀ r, getOrCreate nt ids t = some r →
      r.ids[r.index]? = some t ∧
      (r.created = true ↔ t ∉ ids) ∧
      (r.created = true → r.ids = ids ++ [t] ∧ r.index = ids.length) ∧
      (r.created = false → r.ids = ids) ∧
      (∀ k, k < r.index → ids[k]? ≠ some t) ∧
      getOrCreate nt r.ids t = some ⟨r.index, false, r.ids⟩ ∧
      (ids.Nodup → r.ids.Nodup))

/-! ### COMPLETE_UPDATE_CYCLE -/

/-- The command's step at group `i` sets that group's counter to 0 and enables exactly its registered sources (R181), and
writes nothing else but the CPU's own progress: it goes on to the next group, or is over (R182). With no group left it is
over at once. That one `exec` is one group's step, with the group's index in State, is the model's choice (log 5). -/
def Obligations.BatchStepRestartsOneGroup : Prop :=
  ∀ s : State,
    (s.cpu.batch < s.reg.length → s.reg.length ≤ s.nt →
      ∃ t, exec .completeUpdateCycle s = .next t ∧
        SameSetting s t ∧ SameRegistryAndPins s t ∧ SameMemory s t ∧ t.fault = s.fault ∧
        (∀ m, t.motor m = s.motor m) ∧ SameGroupsBut s.cpu.batch s t ∧
        (t.group s.cpu.batch).cnt = 0#16 ∧ SameTimeBase (s.group s.cpu.batch) (t.group s.cpu.batch) ∧
        (∀ c, (t.group s.cpu.batch).chan c = { ((s.group s.cpu.batch).chan c) with
          dier := ((s.group s.cpu.batch).chan c).dier || ((s.group s.cpu.batch).chan c).src }) ∧
        (s.cpu.batch + 1 < s.reg.length → t.cpu = { s.cpu with batch := s.cpu.batch + 1 }) ∧
        (s.cpu.batch + 1 = s.reg.length → t.cpu = { s.cpu with batch := 0, hpc := s.cpu.hpc + 1 })) ∧
    (s.reg.length ≤ s.cpu.batch →
      exec .completeUpdateCycle s = .next { s with cpu := { s.cpu with batch := 0, hpc := s.cpu.hpc + 1 } })

/-- COMPLETE_UPDATE_CYCLE over all its steps (44_batch_update.md R180): with the CPU given as many turns as there are
registered groups (one if there is none), the command sets every registered group's counter to 0 and enables its sources,
leaves all else, and advances `CPU.hpc` once; in a state of a run the enables are set already. That the command takes one
step a group, and one if there is none, is the model's choice (log 5). -/
def Obligations.BatchRestartsEveryGroup : Prop :=
  ∀ (s : State) (rest : List Turn) (n : Nat), s.reg.length ≤ s.nt → s.cpu.batch = 0 → n = max 1 s.reg.length →
    RunsCommand s .completeUpdateCycle (List.replicate (n - 1) .host ++ rest) →
    ∃ t, runSteps n s = .next t ∧
      SameSetting { s with sched := rest } t ∧ PastOneCommand s t ∧ t.fault = none ∧
      (∀ m, t.motor m = s.motor m) ∧ SameRegistryAndPins s t ∧ SameMemory s t ∧
      (∀ i, i < s.reg.length → (t.group i).cnt = 0#16 ∧ SameTimeBase (s.group i) (t.group i) ∧
        ∀ c, (t.group i).chan c = { ((s.group i).chan c) with
          dier := ((s.group i).chan c).dier || ((s.group i).chan c).src }) ∧
      (∀ i, s.reg.length ≤ i → t.group i = s.group i) ∧
      (Inv s → ∀ i c, ((t.group i).chan c).dier = ((s.group i).chan c).dier)

/-! ### TC_HANDLER and the interrupt -/

/-- TC_HANDLER (43_completion_handler.md R170, R172): a tag out of range raises code 4, whose resource, the motor index
that came in as the tag, is the model's choice between R170's "handler tag" and R221's "motor index" (log 24); else, with
the flag set, the stream is disabled and the flag cleared, and with the flag unset nothing, as for every unconfigured
motor; nothing else changes but `CPU.hpc`; the interrupt is not pending after it. -/
def Obligations.TcHandlerCompletesOrDoesNothing : Prop :=
  ∀ (s : State) (m : Nat),
    (¬ m < s.nm → exec (.tcHandler m) s = .next (s.raiseFault ⟨.badMotorIndex, some m, .motorIndex .tag⟩)) ∧
    (m < s.nm → ∃ t, exec (.tcHandler m) s = .next t ∧
      SameSetting s t ∧ PastOneCommand s t ∧ SameRegistryAndPins s t ∧ SameMemory s t ∧ t.fault = s.fault ∧
      SameMotorsBut m s t ∧ (∀ i, t.group i = s.group i) ∧
      ((s.motor m).dma.tcif = true →
        t.motor m = { (s.motor m) with dma := { (s.motor m).dma with en := false, tcif := false } }) ∧
      ((s.motor m).dma.tcif = false → t.motor m = s.motor m) ∧
      t.pending m = false ∧
      (Inv s → (s.motor m).chan.bound = none → t.motor m = s.motor m))

/-- On a handler's turn in the main context: a pending interrupt runs the handler between two host commands and returns to the
same command (60_exceptions.md R225, R227); inside a COMPLETE_UPDATE_CYCLE it waits, which is the model's choice between R227
and R182 (log 6); one that is not pending is not taken. -/
def Obligations.HandlerTurnTakesAPendingInterrupt : Prop :=
  ∀ (s : State) (m : Nat) (rest : List Turn), TakesTurn s (.handler m) rest → s.cpu.saved = none →
    (s.pending m = true → s.cpu.batch = 0 → ∃ t, step s = .next t ∧ InterruptTaken m { s with sched := rest } t) ∧
    (s.cpu.batch ≠ 0 → step s = .next { s with sched := rest }) ∧
    (s.pending m = false → step s = .next { s with sched := rest })

/-- R32: what pending is, and that only TC_HANDLER of the motor, as its interrupt or as a host command, ends it. -/
def Obligations.OnlyTheHandlerEndsAPendingInterrupt : Prop :=
  (∀ (s : State) (m : Nat), s.pending m = true ↔
    (s.motor m).dma.tcif = true ∧ (s.motor m).dma.tcie = true ∧ (s.motor m).hreg = true) ∧
  (∀ (s t : State) (m : Nat), Inv s → step s = .next t → s.pending m = true → t.pending m = false →
    s.takeTurn.1 = .handler m ∨
      (s.takeTurn.1 = .host ∧ ∃ w, s.prog[s.cpu.hpc]? = some w ∧ decode w = .ok (.tcHandler m)))

/-- Handlers of different motors may run in either order with the same end (60_exceptions.md R229 a). A pending interrupt's
handler and a step of COMPLETE_UPDATE_CYCLE commute, and so do it and a timer step: a run in which a handler moves inside the
command, as 44_batch_update.md R182 would have it, ends where the run ends in which it moves right after the command, as the
model has it (log 6). -/
def Obligations.HandlersCommute : Prop :=
  (∀ (s : State) (m n : Nat), s.cpu.saved = none → m ≠ n →
    (s.takeInterrupt m).takeInterrupt n = (s.takeInterrupt n).takeInterrupt m) ∧
  (∀ (s t : State) (m : Nat), s.cpu.saved = none → exec .completeUpdateCycle s = .next t →
    exec .completeUpdateCycle (s.takeInterrupt m) = .next (t.takeInterrupt m)) ∧
  (∀ (s : State) (m i : Nat), Inv s → s.pending m = true →
    (s.takeInterrupt m).timerStep i = (s.timerStep i).takeInterrupt m)

/-- Every pending interrupt is eventually taken: under any fair sequence of turns, after some of them the motor's flag is
down, unless the run has ended in a fault or a refusal (60_exceptions.md R225). -/
def Obligations.PendingInterruptIsEventuallyTaken : Prop :=
  ∀ (turns : Nat → Turn) (s : State) (m : Nat), FairTurns turns → Inv s → s.pending m = true →
    ∃ n, match runSteps n { s with sched := (List.range n).map turns } with
      | .next t => (t.motor m).dma.tcif = false ∨ t.fault ≠ none
      | .fault _ => True
      | .refused _ => True

/-! ### The timer and the stream -/

/-- A tick of a registered group: the counter goes from 39 to 0 with an update event, else up by one; each PWM channel's
output is high exactly while the counter is below the active value; and outside the channels' preloads and the streams'
counts and flags nothing else changes (45_streamer.md R191 to R193). A bound motor's line carries its channel's output, an unbound
motor has none (R193, 70_reset_and_hazards.md R252). A motor that is not bound to the group keeps every field (10_state.md
R37). A turn of a group that is not registered changes nothing (R191). -/
def Obligations.TimerTickCountsUpdatesAndDrives : Prop :=
  (∀ (s : State) (i : Nat) (rest : List Turn), Inv s → TakesTurn s (.timer i) rest → s.reg.length ≤ i →
    step s = .next { s with sched := rest }) ∧
  ∀ (s : State) (i : Nat) (rest : List Turn), Inv s → TakesTurn s (.timer i) rest → i < s.reg.length →
    ∃ t, step s = .next t ∧ SameSetting { s with sched := rest } t ∧ t.cpu = s.cpu ∧ t.fault = none ∧
      SameRegistryAndPins s t ∧ SameMemory s t ∧ SameGroupsBut i s t ∧ SameTimeBase (s.group i) (t.group i) ∧
      (t.group i).cnt = (if (s.group i).cnt = 39#16 then 0#16 else (s.group i).cnt + 1#16) ∧
      (∀ c, ((t.group i).chan c).src = ((s.group i).chan c).src ∧ ((t.group i).chan c).dier = ((s.group i).chan c).dier ∧
        ((t.group i).chan c).mode = ((s.group i).chan c).mode ∧ ((t.group i).chan c).ocpe = ((s.group i).chan c).ocpe ∧
        ((t.group i).chan c).ccr = (if (s.group i).cnt = 39#16 ∧ ((s.group i).chan c).ocpe = true
          then ((s.group i).chan c).ccrp else ((s.group i).chan c).ccr) ∧
        (((s.group i).chan c).mode = .pwm →
          (((t.group i).chan c).out = true ↔ (t.group i).cnt < ((t.group i).chan c).ccr)) ∧
        (((s.group i).chan c).mode = .off → ((t.group i).chan c).out = false)) ∧
      (∀ m, (t.motor m).chan = (s.motor m).chan ∧ (t.motor m).hreg = (s.motor m).hreg ∧
        (t.motor m).dma.en = (s.motor m).dma.en ∧ (t.motor m).dma.tcie = (s.motor m).dma.tcie ∧
        (t.motor m).dma.setup = (s.motor m).dma.setup) ∧
      (∀ m, (∀ bd, (s.motor m).chan.bound = some bd → bd.grp ≠ i) → t.motor m = s.motor m) ∧
      (∀ m bd, (s.motor m).chan.bound = some bd → t.line m = some ((t.group bd.grp).chan bd.ch).out ∧
        (bd.grp = i → t.line m = some (decide ((t.group i).cnt < ((t.group i).chan bd.ch).ccr)))) ∧
      (∀ m, (s.motor m).chan.bound = none → t.line m = none)

/-- R196 and R197: in a tick, a compare event of motor `m`'s channel on an enabled stream with count above 0 moves entry
`16 - count`, zero-extended, into the channel's preload and counts down, and the flag rises exactly when the count reaches
0; without the event, or on a stream that cannot transfer, preload and stream stay. -/
def Obligations.CompareEventTransfersTheNextEntry : Prop :=
  ∀ (s t : State) (i : Nat) (c : Channel) (m : Nat) (bd : Bound) (rest : List Turn),
    Inv s → TakesTurn s (.timer i) rest → step s = .next t →
    (s.motor m).chan.bound = some bd → bd.grp = i → bd.ch = c →
    ((t.group i).cnt = ((t.group i).chan c).ccr → (s.motor m).dma.en = true → (s.motor m).dma.ndtr ≠ 0#16 →
      ∃ v, s.readTick m (16 - (s.motor m).dma.ndtr.toNat) = some v ∧
        ((t.group i).chan c).ccrp = BitVec.setWidth 16 v ∧
        (t.motor m).dma.ndtr.toNat + 1 = (s.motor m).dma.ndtr.toNat ∧
        (t.motor m).dma.en = true ∧
        ((t.motor m).dma.tcif = true ↔ (s.motor m).dma.ndtr = 1#16) ∧
        (t.pending m = true ↔ (s.motor m).dma.ndtr = 1#16)) ∧
    ((t.group i).cnt ≠ ((t.group i).chan c).ccr ∨ (s.motor m).dma.en = false ∨ (s.motor m).dma.ndtr = 0#16 →
      ((t.group i).chan c).ccrp = ((s.group i).chan c).ccrp ∧ (t.motor m).dma = (s.motor m).dma)

/-- An armed stream copies its whole frame: after 680 ticks (17 bit periods) of its group, with no other turn between, its
16 entries have been copied, the last of them is in the preload, and the transfer-complete flag is up
(45_streamer.md R198, R201). -/
def Obligations.ArmedStreamCompletesWithinSeventeenPeriods : Prop :=
  ∀ (s : State) (m : Nat) (bd : Bound) (rest : List Turn), Inv s → 1 ≤ s.nm ∧ s.nm ≤ 256 → s.fault = none →
    (s.motor m).chan.bound = some bd → (s.motor m).dma.en = true → (s.motor m).dma.ndtr = 16#16 →
    s.sched = List.replicate 680 (.timer bd.grp) ++ rest →
    ∃ t v, runSteps 680 s = .next t ∧ t.sched = rest ∧ t.fault = none ∧ t.cpu = s.cpu ∧ SameMemory s t ∧
      (t.motor m).dma.en = true ∧ (t.motor m).dma.ndtr = 0#16 ∧ (t.motor m).dma.tcif = true ∧
      s.readTick m 15 = some v ∧ ((t.group bd.grp).chan bd.ch).ccrp = BitVec.setWidth 16 v

/-! ### Rules of the whole machine -/

/-- No step changes the parameters, the host program, `NM` or `NT` (00_scope.md R8). -/
def Obligations.ParametersAndProgramNeverChange : Prop :=
  ∀ s t : State, step s = .next t → t.plat = s.plat ∧ t.prog = s.prog ∧ t.nm = s.nm ∧ t.nt = s.nt

/-- `CPU.hpc` moves only on the CPU's turn, by one; a handler or timer turn leaves it (10_state.md R22). -/
def Obligations.OnlyHostCommandsAdvanceTheIndex : Prop :=
  ∀ s t : State, s.cpu.saved = none → step s = .next t →
    t.cpu.hpc = s.cpu.hpc ∨ (t.cpu.hpc = s.cpu.hpc + 1 ∧ s.takeTurn.1 = .host ∧ s.cpu.hpc < s.prog.length)

/-- R26: the registry is empty at reset and stays within its capacity, its count never decreases, no entry below it changes;
and only CONFIGURE writes it (41_timer_registry.md R145). -/
def Obligations.RegistryOnlyGrowsByConfigure : Prop :=
  (∀ (nm nt : Nat) (p : Platform), (State.resetWith nm nt p).reg = []) ∧
  ∀ s t : State, step s = .next t →
    (s.reg.length ≤ s.nt → t.reg.length ≤ t.nt) ∧ s.reg.length ≤ t.reg.length ∧
    (∀ i, i < s.reg.length → t.reg[i]? = s.reg[i]?) ∧
    (∀ i, t.reg.length ≤ i → t.reg[i]? = none) ∧
    (t.reg ≠ s.reg → s.takeTurn.1 = .host ∧
      ∃ w m v, s.prog[s.cpu.hpc]? = some w ∧ decode w = .ok (.configure m v))

/-- A motor's binding is for its lifetime: no step changes a binding once made (10_state.md R23). -/
def Obligations.BindingIsForLife : Prop :=
  ∀ (s t : State) (m : Nat) (bd : Bound), step s = .next t → (s.motor m).chan.bound = some bd →
    (t.motor m).chan.bound = some bd

/-- No step releases or changes a pin once owned (10_state.md R33). -/
def Obligations.OwnedPinNeverChanges : Prop :=
  ∀ (s t : State) (p : PinId), step s = .next t → (s.pin p).owner ≠ .none → t.pin p = s.pin p

/-- A registered group's time base is never written again (10_state.md R28, 42_configurator.md R163). -/
def Obligations.TimeBaseIsWrittenOnce : Prop :=
  ∀ (s t : State) (i : Nat), step s = .next t → i < s.reg.length → SameTimeBase (s.group i) (t.group i)

/-- No step clears a request enable or takes a channel off the list of trigger sources (42_configurator.md R158). -/
def Obligations.RequestEnableIsNeverCleared : Prop :=
  ∀ (s t : State) (i : Nat) (c : Channel), step s = .next t →
    (((s.group i).chan c).dier = true → ((t.group i).chan c).dier = true) ∧
    (((s.group i).chan c).src = true → ((t.group i).chan c).src = true)

/-- A stream is enabled only by ENCODE of its motor and disabled only by TC_HANDLER of it; the DMA hardware never clears
the enable (10_state.md R29). -/
def Obligations.StreamEnableChangesOnlyByEncodeAndHandler : Prop :=
  ∀ (s t : State) (m : Nat), Inv s → step s = .next t →
    ((s.motor m).dma.en = false → (t.motor m).dma.en = true → s.takeTurn.1 = .host ∧
      ∃ w th, s.prog[s.cpu.hpc]? = some w ∧ decode w = .ok (.encode m th)) ∧
    ((s.motor m).dma.en = true → (t.motor m).dma.en = false → s.takeTurn.1 = .handler m ∨
      (s.takeTurn.1 = .host ∧ ∃ w, s.prog[s.cpu.hpc]? = some w ∧ decode w = .ok (.tcHandler m)))

/-- A tick buffer changes only by ENCODE of its motor, while its stream is disabled (70_reset_and_hazards.md R265). -/
def Obligations.BufferChangesOnlyWhileItsStreamIsDisabled : Prop :=
  ∀ (s t : State) (m k : Nat), step s = .next t → t.readTick m k ≠ s.readTick m k →
    (s.motor m).dma.en = false ∧ s.takeTurn.1 = .host ∧
      ∃ w th, s.prog[s.cpu.hpc]? = some w ∧ decode w = .ok (.encode m th)

/-- From a quiescent state on, every step stays quiescent and keeps the observation, whichever agent moves
(70_reset_and_hazards.md R271). -/
def Obligations.QuiescentObservationIsFixed : Prop :=
  ∀ s t : State, Quiescent s → step s = .next t → Quiescent t ∧ t.observed = s.observed

/-! ### The wire -/

/-- The frame on the wire (the inference R198 a to c of 45_streamer.md). From a state with a stream just armed, with no other
turn between: the first compare event falls in the current period if the counter is still below the active value, else in
the next; call it period q. At count `r` of period `q + 1 + k`, entry `k` is the active value and the motor's line is high
exactly for `r` below it; `15 - k` entries are left to transfer, one less once the count has reached the entry; and the flag
rises at the compare event of entry 14. -/
def Obligations.ArmedFrameReachesTheLine : Prop :=
  ∀ (s : State) (m : Nat) (bd : Bound) (rest : List Turn) (k r : Nat), Inv s → 1 ≤ s.nm ∧ s.nm ≤ 256 → s.fault = none →
    (s.motor m).chan.bound = some bd → (s.motor m).dma.en = true → (s.motor m).dma.ndtr = 16#16 →
    s.sched = List.replicate 720 (.timer bd.grp) ++ rest → k < 16 → r < 40 →
    ∃ t v, runSteps ((if (s.group bd.grp).cnt < ((s.group bd.grp).chan bd.ch).ccr then 40 else 80) -
        (s.group bd.grp).cnt.toNat + 40 * k + r) s = .next t ∧
      s.readTick m k = some v ∧ (t.group bd.grp).cnt.toNat = r ∧
      ((t.group bd.grp).chan bd.ch).ccr = BitVec.setWidth 16 v ∧ t.line m = some (decide (r < v.toNat)) ∧
      (t.motor m).dma.ndtr.toNat = 15 - k - (if v.toNat ≤ r then 1 else 0) ∧
      ((t.motor m).dma.tcif = true ↔ k = 15 ∨ (k = 14 ∧ v.toNat ≤ r))
end

