-- ==== Sys2Proof/Laws/Memory.lean ====
section
/-! SUPPORT. Sparse tables: reading after a write, and the canonical form that every write keeps (20_memory.md R61, R69). -/

namespace Sys2Proof.Machine

variable {α : Type}

/-- A write is read back at its own key, and nowhere else. -/
theorem Sparse.read_write (t : List (Nat × α)) (a b : Nat) (x : α) :
    Sparse.read (Sparse.write t a x) b = if b = a then some x else Sparse.read t b := by
  induction t with
  | nil => simp [Sparse.write, Sparse.read, eq_comm]
  | cons e rest ih =>
    obtain ⟨k, v⟩ := e
    unfold Sparse.write
    by_cases h1 : a < k
    · simp only [h1, if_true, Sparse.read, eq_comm]
    · by_cases h2 : k = a
      · subst h2
        by_cases h3 : b = k <;> simp [Sparse.read, h3, eq_comm]
      · by_cases h3 : b = a
        · subst h3
          simp [Sparse.read, ih, h1, h2]
        · simp [Sparse.read, ih, h1, h2, h3]

@[simp] theorem Sparse.read_write_same (t : List (Nat × α)) (a : Nat) (x : α) :
    Sparse.read (Sparse.write t a x) a = some x := by simp [Sparse.read_write]

theorem Sparse.read_write_other (t : List (Nat × α)) {a b : Nat} (x : α) (h : b ≠ a) :
    Sparse.read (Sparse.write t a x) b = Sparse.read t b := by simp [Sparse.read_write, h]

/-- What a written table lists. -/
theorem Sparse.mem_write {t : List (Nat × α)} {a : Nat} {x : α} {e : Nat × α} (h : e ∈ Sparse.write t a x) :
    e = (a, x) ∨ e ∈ t := by
  induction t with
  | nil => exact .inl (by simpa [Sparse.write] using h)
  | cons d rest ih =>
    obtain ⟨k, v⟩ := d
    unfold Sparse.write at h
    split_ifs at h
    · exact (List.mem_cons.1 h).imp_right id
    · exact (List.mem_cons.1 h).imp_right (List.mem_cons_of_mem _)
    · rcases List.mem_cons.1 h with h | h
      · exact .inr (by simp [h])
      · exact (ih h).imp_right (List.mem_cons_of_mem _)

/-- Every write keeps the canonical form. -/
theorem Sparse.rising_write {t : List (Nat × α)} (h : Sparse.rising t) (a : Nat) (x : α) :
    Sparse.rising (Sparse.write t a x) := by
  induction t with
  | nil => simp [Sparse.write, Sparse.rising]
  | cons d rest ih =>
    obtain ⟨k, v⟩ := d
    have hk : ∀ e ∈ rest, k < e.1 := by simpa [Sparse.rising] using (List.pairwise_cons.1 h).1
    have hr : Sparse.rising rest := (List.pairwise_cons.1 h).2
    unfold Sparse.write
    split_ifs with h1 h2
    · refine List.pairwise_cons.2 ⟨?_, h⟩
      simpa [h1] using fun b y hb => h1.trans (hk (b, y) hb)
    · subst h2
      exact List.pairwise_cons.2 ⟨by simpa using fun b y hb => hk (b, y) hb, hr⟩
    · refine List.pairwise_cons.2 ⟨?_, ih hr⟩
      intro b hb
      obtain ⟨e, he, rfl⟩ := List.mem_map.1 hb
      rcases Sparse.mem_write he with rfl | he
      · simp
        omega
      · exact hk e he

@[simp] theorem Memory.read_write_same (mem : Memory) (a : Nat) (v : Byte) : (mem.write a v).read a = some v :=
  Sparse.read_write_same mem a v

theorem Memory.read_write_other (mem : Memory) {a b : Nat} (v : Byte) (h : b ≠ a) : (mem.write a v).read b = mem.read b :=
  Sparse.read_write_other mem v h

/-- Writing a byte keeps memory canonical. -/
theorem Memory.wf_write {mem : Memory} (h : mem.wf) (a : Nat) (v : Byte) : (mem.write a v).wf := Sparse.rising_write h a v

/-- Memory at reset, with no byte listed, is canonical. -/
theorem Memory.wf_nil : Memory.wf ([] : Memory) := List.Pairwise.nil

end Sys2Proof.Machine
end

