-- ==== Sys2Proof/Laws/State.lean ====
section
/-! SUPPORT. One lemma per field per update of the state, so that no later proof unfolds a record update. -/

namespace Sys2Proof.Machine

variable (s : State)

/-! ### setMotor -/

@[simp] theorem State.setMotor_plat (m : Nat) (u : Motor) : (s.setMotor m u).plat = s.plat := rfl
@[simp] theorem State.setMotor_prog (m : Nat) (u : Motor) : (s.setMotor m u).prog = s.prog := rfl
@[simp] theorem State.setMotor_cpu (m : Nat) (u : Motor) : (s.setMotor m u).cpu = s.cpu := rfl
@[simp] theorem State.setMotor_motors (m : Nat) (u : Motor) : (s.setMotor m u).motors = s.motors.set m u := rfl
@[simp] theorem State.setMotor_reg (m : Nat) (u : Motor) : (s.setMotor m u).reg = s.reg := rfl
@[simp] theorem State.setMotor_groups (m : Nat) (u : Motor) : (s.setMotor m u).groups = s.groups := rfl
@[simp] theorem State.setMotor_pins (m : Nat) (u : Motor) : (s.setMotor m u).pins = s.pins := rfl
@[simp] theorem State.setMotor_mem (m : Nat) (u : Motor) : (s.setMotor m u).mem = s.mem := rfl
@[simp] theorem State.setMotor_fault (m : Nat) (u : Motor) : (s.setMotor m u).fault = s.fault := rfl
@[simp] theorem State.setMotor_sched (m : Nat) (u : Motor) : (s.setMotor m u).sched = s.sched := rfl
@[simp] theorem State.setMotor_choices (m : Nat) (u : Motor) : (s.setMotor m u).choices = s.choices := rfl

/-! ### setGroup -/

@[simp] theorem State.setGroup_plat (i : Nat) (g : Group) : (s.setGroup i g).plat = s.plat := rfl
@[simp] theorem State.setGroup_prog (i : Nat) (g : Group) : (s.setGroup i g).prog = s.prog := rfl
@[simp] theorem State.setGroup_cpu (i : Nat) (g : Group) : (s.setGroup i g).cpu = s.cpu := rfl
@[simp] theorem State.setGroup_motors (i : Nat) (g : Group) : (s.setGroup i g).motors = s.motors := rfl
@[simp] theorem State.setGroup_reg (i : Nat) (g : Group) : (s.setGroup i g).reg = s.reg := rfl
@[simp] theorem State.setGroup_groups (i : Nat) (g : Group) : (s.setGroup i g).groups = s.groups.set i g := rfl
@[simp] theorem State.setGroup_pins (i : Nat) (g : Group) : (s.setGroup i g).pins = s.pins := rfl
@[simp] theorem State.setGroup_mem (i : Nat) (g : Group) : (s.setGroup i g).mem = s.mem := rfl
@[simp] theorem State.setGroup_fault (i : Nat) (g : Group) : (s.setGroup i g).fault = s.fault := rfl
@[simp] theorem State.setGroup_sched (i : Nat) (g : Group) : (s.setGroup i g).sched = s.sched := rfl
@[simp] theorem State.setGroup_choices (i : Nat) (g : Group) : (s.setGroup i g).choices = s.choices := rfl

/-! ### claimPin -/

@[simp] theorem State.claimPin_plat (p : PinId) (m af : Nat) : (s.claimPin p m af).plat = s.plat := rfl
@[simp] theorem State.claimPin_prog (p : PinId) (m af : Nat) : (s.claimPin p m af).prog = s.prog := rfl
@[simp] theorem State.claimPin_cpu (p : PinId) (m af : Nat) : (s.claimPin p m af).cpu = s.cpu := rfl
@[simp] theorem State.claimPin_motors (p : PinId) (m af : Nat) : (s.claimPin p m af).motors = s.motors := rfl
@[simp] theorem State.claimPin_reg (p : PinId) (m af : Nat) : (s.claimPin p m af).reg = s.reg := rfl
@[simp] theorem State.claimPin_groups (p : PinId) (m af : Nat) : (s.claimPin p m af).groups = s.groups := rfl
@[simp] theorem State.claimPin_pins (p : PinId) (m af : Nat) : (s.claimPin p m af).pins = Sparse.write s.pins p.id ⟨.motor m, .af af⟩ := rfl
@[simp] theorem State.claimPin_mem (p : PinId) (m af : Nat) : (s.claimPin p m af).mem = s.mem := rfl
@[simp] theorem State.claimPin_fault (p : PinId) (m af : Nat) : (s.claimPin p m af).fault = s.fault := rfl
@[simp] theorem State.claimPin_sched (p : PinId) (m af : Nat) : (s.claimPin p m af).sched = s.sched := rfl
@[simp] theorem State.claimPin_choices (p : PinId) (m af : Nat) : (s.claimPin p m af).choices = s.choices := rfl

/-! ### writeTick -/

@[simp] theorem State.writeTick_plat (m k : Nat) (v : Byte) : (s.writeTick m k v).plat = s.plat := rfl
@[simp] theorem State.writeTick_prog (m k : Nat) (v : Byte) : (s.writeTick m k v).prog = s.prog := rfl
@[simp] theorem State.writeTick_cpu (m k : Nat) (v : Byte) : (s.writeTick m k v).cpu = s.cpu := rfl
@[simp] theorem State.writeTick_motors (m k : Nat) (v : Byte) : (s.writeTick m k v).motors = s.motors := rfl
@[simp] theorem State.writeTick_reg (m k : Nat) (v : Byte) : (s.writeTick m k v).reg = s.reg := rfl
@[simp] theorem State.writeTick_groups (m k : Nat) (v : Byte) : (s.writeTick m k v).groups = s.groups := rfl
@[simp] theorem State.writeTick_pins (m k : Nat) (v : Byte) : (s.writeTick m k v).pins = s.pins := rfl
@[simp] theorem State.writeTick_mem (m k : Nat) (v : Byte) : (s.writeTick m k v).mem = s.mem.write (bufAddr m k) v := rfl
@[simp] theorem State.writeTick_fault (m k : Nat) (v : Byte) : (s.writeTick m k v).fault = s.fault := rfl
@[simp] theorem State.writeTick_sched (m k : Nat) (v : Byte) : (s.writeTick m k v).sched = s.sched := rfl
@[simp] theorem State.writeTick_choices (m k : Nat) (v : Byte) : (s.writeTick m k v).choices = s.choices := rfl

/-! ### advance -/

@[simp] theorem State.advance_plat : (s.advance).plat = s.plat := rfl
@[simp] theorem State.advance_prog : (s.advance).prog = s.prog := rfl
@[simp] theorem State.advance_cpu : (s.advance).cpu = { s.cpu with hpc := s.cpu.hpc + 1 } := rfl
@[simp] theorem State.advance_motors : (s.advance).motors = s.motors := rfl
@[simp] theorem State.advance_reg : (s.advance).reg = s.reg := rfl
@[simp] theorem State.advance_groups : (s.advance).groups = s.groups := rfl
@[simp] theorem State.advance_pins : (s.advance).pins = s.pins := rfl
@[simp] theorem State.advance_mem : (s.advance).mem = s.mem := rfl
@[simp] theorem State.advance_fault : (s.advance).fault = s.fault := rfl
@[simp] theorem State.advance_sched : (s.advance).sched = s.sched := rfl
@[simp] theorem State.advance_choices : (s.advance).choices = s.choices := rfl

/-! ### recordFault -/

@[simp] theorem State.recordFault_plat (f : FaultRecord) : (s.recordFault f).plat = s.plat := rfl
@[simp] theorem State.recordFault_prog (f : FaultRecord) : (s.recordFault f).prog = s.prog := rfl
@[simp] theorem State.recordFault_cpu (f : FaultRecord) : (s.recordFault f).cpu = s.cpu := rfl
@[simp] theorem State.recordFault_motors (f : FaultRecord) : (s.recordFault f).motors = s.motors := rfl
@[simp] theorem State.recordFault_reg (f : FaultRecord) : (s.recordFault f).reg = s.reg := rfl
@[simp] theorem State.recordFault_groups (f : FaultRecord) : (s.recordFault f).groups = s.groups := rfl
@[simp] theorem State.recordFault_pins (f : FaultRecord) : (s.recordFault f).pins = s.pins := rfl
@[simp] theorem State.recordFault_mem (f : FaultRecord) : (s.recordFault f).mem = s.mem := rfl
@[simp] theorem State.recordFault_sched (f : FaultRecord) : (s.recordFault f).sched = s.sched := rfl
@[simp] theorem State.recordFault_choices (f : FaultRecord) : (s.recordFault f).choices = s.choices := rfl

/-! ### raiseFault -/

@[simp] theorem State.raiseFault_plat (f : FaultRecord) : (s.raiseFault f).plat = s.plat := rfl
@[simp] theorem State.raiseFault_prog (f : FaultRecord) : (s.raiseFault f).prog = s.prog := rfl
@[simp] theorem State.raiseFault_cpu (f : FaultRecord) : (s.raiseFault f).cpu = { s.cpu with hpc := s.cpu.hpc + 1 } := rfl
@[simp] theorem State.raiseFault_motors (f : FaultRecord) : (s.raiseFault f).motors = s.motors := rfl
@[simp] theorem State.raiseFault_reg (f : FaultRecord) : (s.raiseFault f).reg = s.reg := rfl
@[simp] theorem State.raiseFault_groups (f : FaultRecord) : (s.raiseFault f).groups = s.groups := rfl
@[simp] theorem State.raiseFault_pins (f : FaultRecord) : (s.raiseFault f).pins = s.pins := rfl
@[simp] theorem State.raiseFault_mem (f : FaultRecord) : (s.raiseFault f).mem = s.mem := rfl
@[simp] theorem State.raiseFault_sched (f : FaultRecord) : (s.raiseFault f).sched = s.sched := rfl
@[simp] theorem State.raiseFault_choices (f : FaultRecord) : (s.raiseFault f).choices = s.choices := rfl

/-! ### enterInterrupt -/

@[simp] theorem State.enterInterrupt_plat : (s.enterInterrupt).plat = s.plat := rfl
@[simp] theorem State.enterInterrupt_prog : (s.enterInterrupt).prog = s.prog := rfl
@[simp] theorem State.enterInterrupt_cpu : (s.enterInterrupt).cpu = { s.cpu with saved := some s.cpu.hpc } := rfl
@[simp] theorem State.enterInterrupt_motors : (s.enterInterrupt).motors = s.motors := rfl
@[simp] theorem State.enterInterrupt_reg : (s.enterInterrupt).reg = s.reg := rfl
@[simp] theorem State.enterInterrupt_groups : (s.enterInterrupt).groups = s.groups := rfl
@[simp] theorem State.enterInterrupt_pins : (s.enterInterrupt).pins = s.pins := rfl
@[simp] theorem State.enterInterrupt_mem : (s.enterInterrupt).mem = s.mem := rfl
@[simp] theorem State.enterInterrupt_fault : (s.enterInterrupt).fault = s.fault := rfl
@[simp] theorem State.enterInterrupt_sched : (s.enterInterrupt).sched = s.sched := rfl
@[simp] theorem State.enterInterrupt_choices : (s.enterInterrupt).choices = s.choices := rfl

/-! ### returnFromInterrupt -/

@[simp] theorem State.returnFromInterrupt_plat : (s.returnFromInterrupt).plat = s.plat := rfl
@[simp] theorem State.returnFromInterrupt_prog : (s.returnFromInterrupt).prog = s.prog := rfl
@[simp] theorem State.returnFromInterrupt_cpu : (s.returnFromInterrupt).cpu = { s.cpu with hpc := s.cpu.saved.getD s.cpu.hpc, saved := none } := rfl
@[simp] theorem State.returnFromInterrupt_motors : (s.returnFromInterrupt).motors = s.motors := rfl
@[simp] theorem State.returnFromInterrupt_reg : (s.returnFromInterrupt).reg = s.reg := rfl
@[simp] theorem State.returnFromInterrupt_groups : (s.returnFromInterrupt).groups = s.groups := rfl
@[simp] theorem State.returnFromInterrupt_pins : (s.returnFromInterrupt).pins = s.pins := rfl
@[simp] theorem State.returnFromInterrupt_mem : (s.returnFromInterrupt).mem = s.mem := rfl
@[simp] theorem State.returnFromInterrupt_fault : (s.returnFromInterrupt).fault = s.fault := rfl
@[simp] theorem State.returnFromInterrupt_sched : (s.returnFromInterrupt).sched = s.sched := rfl
@[simp] theorem State.returnFromInterrupt_choices : (s.returnFromInterrupt).choices = s.choices := rfl

/-! ### Recording a fault -/

theorem State.recordFault_fault (f : FaultRecord) : (s.recordFault f).fault = if s.fault = none then some f else s.fault := by
  unfold State.recordFault
  cases s.fault <;> simp

theorem State.raiseFault_fault (f : FaultRecord) : (s.raiseFault f).fault = if s.fault = none then some f else s.fault :=
  s.recordFault_fault f

/-- A fault once recorded stays (10_state.md R34). -/
theorem State.recordFault_sticky {f g : FaultRecord} (h : s.fault = some g) : (s.recordFault f).fault = some g := by
  simp [State.recordFault_fault, h]

end Sys2Proof.Machine
end

