-- ==== Sys2Proof/Laws/Access.lean ====
section
/-! SUPPORT. The accessors of motors, groups, channels, pins and tick buffers over their updates. -/

namespace Sys2Proof.Machine

/-! ### Channels -/

@[simp] theorem PerChannel.get_set_same {α : Type} (x : PerChannel α) (c : Channel) (v : α) : (x.set c v).get c = v := by
  cases c <;> rfl

theorem PerChannel.get_set_other {α : Type} (x : PerChannel α) {c d : Channel} (v : α) (h : d ≠ c) :
    (x.set c v).get d = x.get d := by
  cases c <;> cases d <;> first | rfl | exact absurd rfl h

@[simp] theorem PerChannel.get_map {α : Type} (f : α → α) (x : PerChannel α) (c : Channel) :
    (x.map f).get c = f (x.get c) := by
  cases c <;> rfl

@[simp] theorem Group.chan_setChan_same (g : Group) (c : Channel) (x : CompareUnit) : (g.setChan c x).chan c = x :=
  PerChannel.get_set_same _ _ _

theorem Group.chan_setChan_other (g : Group) {c d : Channel} (x : CompareUnit) (h : d ≠ c) :
    (g.setChan c x).chan d = g.chan d :=
  PerChannel.get_set_other _ _ h

theorem Channel.mem_all (c : Channel) : c ∈ Channel.all := by cases c <;> simp [Channel.all]

/-! ### Motors and groups -/

variable (s : State)

@[simp] theorem State.nm_setMotor (m : Nat) (u : Motor) : (s.setMotor m u).nm = s.nm := List.length_set

@[simp] theorem State.nt_setGroup (i : Nat) (g : Group) : (s.setGroup i g).nt = s.nt := List.length_set

/-- A state's motors are read through the list alone. -/
theorem State.motor_eq {s t : State} (h : t.motors = s.motors) (m : Nat) : t.motor m = s.motor m := by
  simp [State.motor, h]

/-- A state's groups are read through the list alone. -/
theorem State.group_eq {s t : State} (h : t.groups = s.groups) (i : Nat) : t.group i = s.group i := by
  simp [State.group, h]

theorem State.motor_setMotor (m m' : Nat) (u : Motor) :
    (s.setMotor m u).motor m' = if m' = m ∧ m < s.nm then u else s.motor m' := by
  simp only [State.motor, State.setMotor, State.nm, List.getD_eq_getElem?_getD, List.getElem?_set]
  by_cases h : m = m'
  · subst h
    by_cases h2 : m < s.motors.length <;> simp [h2]
  · simp [h, Ne.symm h]

theorem State.motor_setMotor_same {m : Nat} (h : m < s.nm) (u : Motor) : (s.setMotor m u).motor m = u := by
  simp [State.motor_setMotor, h]

theorem State.motor_setMotor_other {m m' : Nat} (u : Motor) (h : m' ≠ m) : (s.setMotor m u).motor m' = s.motor m' := by
  simp [State.motor_setMotor, h]

theorem State.group_setGroup (i i' : Nat) (g : Group) :
    (s.setGroup i g).group i' = if i' = i ∧ i < s.nt then g else s.group i' := by
  simp only [State.group, State.setGroup, State.nt, List.getD_eq_getElem?_getD, List.getElem?_set]
  by_cases h : i = i'
  · subst h
    by_cases h2 : i < s.groups.length <;> simp [h2]
  · simp [h, Ne.symm h]

theorem State.group_setGroup_same {i : Nat} (h : i < s.nt) (g : Group) : (s.setGroup i g).group i = g := by
  simp [State.group_setGroup, h]

theorem State.group_setGroup_other {i i' : Nat} (g : Group) (h : i' ≠ i) : (s.setGroup i g).group i' = s.group i' := by
  simp [State.group_setGroup, h]

/-- A motor at or above `NM` is a motor at reset: nothing is bound to it. -/
theorem State.motor_out_of_range {m : Nat} (h : s.nm ≤ m) : s.motor m = Motor.reset := by
  simp [State.motor, List.getD_eq_getElem?_getD, List.getElem?_eq_none_iff.2 h]

/-- A group at or above `NT` is a group at reset. -/
theorem State.group_out_of_range {i : Nat} (h : s.nt ≤ i) : s.group i = Group.reset := by
  simp [State.group, List.getD_eq_getElem?_getD, List.getElem?_eq_none_iff.2 h]

@[simp] theorem State.motor_setGroup (i m : Nat) (g : Group) : (s.setGroup i g).motor m = s.motor m := rfl
@[simp] theorem State.group_setMotor (i m : Nat) (u : Motor) : (s.setMotor m u).group i = s.group i := rfl
@[simp] theorem State.motor_advance (m : Nat) : s.advance.motor m = s.motor m := rfl
@[simp] theorem State.group_advance (i : Nat) : s.advance.group i = s.group i := rfl
@[simp] theorem State.motor_writeTick (m k n : Nat) (v : Byte) : (s.writeTick m k v).motor n = s.motor n := rfl
@[simp] theorem State.group_writeTick (m k i : Nat) (v : Byte) : (s.writeTick m k v).group i = s.group i := rfl
@[simp] theorem State.motor_claimPin (p : PinId) (m af n : Nat) : (s.claimPin p m af).motor n = s.motor n := rfl
@[simp] theorem State.group_claimPin (p : PinId) (m af i : Nat) : (s.claimPin p m af).group i = s.group i := rfl
@[simp] theorem State.motor_raiseFault (f : FaultRecord) (m : Nat) : (s.raiseFault f).motor m = s.motor m := rfl
@[simp] theorem State.group_raiseFault (f : FaultRecord) (i : Nat) : (s.raiseFault f).group i = s.group i := rfl
@[simp] theorem State.motor_recordFault (f : FaultRecord) (m : Nat) : (s.recordFault f).motor m = s.motor m := rfl
@[simp] theorem State.group_recordFault (f : FaultRecord) (i : Nat) : (s.recordFault f).group i = s.group i := rfl

/-! ### Pins -/

theorem State.pin_claimPin (p q : PinId) (m af : Nat) :
    (s.claimPin p m af).pin q = if q = p then ⟨.motor m, .af af⟩ else s.pin q := by
  obtain ⟨a⟩ := p
  obtain ⟨b⟩ := q
  by_cases h : b = a <;> simp [State.pin, Sparse.read_write, h]

/-- Claiming a pin keeps the pins canonical. -/
theorem pinsWf_claimPin {s : State} (h : pinsWf s.pins) (p : PinId) (m af : Nat) : pinsWf (s.claimPin p m af).pins := by
  refine ⟨Sparse.rising_write h.1 _ _, fun e he => ?_⟩
  rcases Sparse.mem_write he with rfl | he
  · simp [PinState.reset]
  · exact h.2 e he

/-- The pins at reset are canonical. -/
theorem pinsWf_atReset (l : List PinId) : pinsWf (pinsAtReset l) := by
  induction l with
  | nil => exact ⟨List.Pairwise.nil, by simp [pinsAtReset]⟩
  | cons p rest ih =>
    refine ⟨Sparse.rising_write ih.1 _ _, fun e he => ?_⟩
    rcases Sparse.mem_write he with rfl | he
    · simp [PinState.reset]
    · exact ih.2 e he

/-- `PIN.owner` at reset: OTHER for the pins of `PIN_OWNERS0`, NONE for the rest (10_state.md R33). -/
theorem read_pinsAtReset (l : List PinId) (q : PinId) :
    Sparse.read (pinsAtReset l) q.id = if q ∈ l then some ⟨.other, .unchanged⟩ else none := by
  induction l with
  | nil => rfl
  | cons p rest ih =>
    obtain ⟨a⟩ := p
    obtain ⟨b⟩ := q
    by_cases h : b = a <;> simp [pinsAtReset, Sparse.read_write, h, ih]

/-! ### Tick buffers -/

/-- Distinct entries have distinct addresses (20_memory.md R61). -/
theorem bufAddr_injective {m m' k k' : Nat} (hk : k < 16) (hk' : k' < 16) (h : bufAddr m k = bufAddr m' k') :
    m = m' ∧ k = k' := by
  unfold bufAddr at h
  omega

/-- The bytes that `n` buffer writes leave: entries below `n` of motor `m` from the frame, every other byte as it was. -/
theorem State.read_writeTicks (m : Nat) (fr : Half) (n : Nat) (a : Nat) :
    (s.writeTicks m fr n).mem.read a =
      if bufAddr m 0 ≤ a ∧ a < bufAddr m 0 + n then some (tick fr (a - bufAddr m 0)) else s.mem.read a := by
  induction n with
  | zero =>
    simp [State.writeTicks]
  | succ n ih =>
    have hb : bufAddr m n = bufAddr m 0 + n := by simp [bufAddr]
    by_cases h : a = bufAddr m n
    · have : bufAddr m 0 ≤ a ∧ a < bufAddr m 0 + (n + 1) := by omega
      simp only [this, and_self, if_true]
      simp [State.writeTicks, h, hb]
    · have : (bufAddr m 0 ≤ a ∧ a < bufAddr m 0 + (n + 1)) ↔ (bufAddr m 0 ≤ a ∧ a < bufAddr m 0 + n) := by omega
      simp [State.writeTicks, Memory.read_write_other _ _ h, ih, this]

/-- Buffer writes keep memory canonical. -/
theorem State.wf_writeTicks {s : State} (h : s.mem.wf) (m : Nat) (fr : Half) (n : Nat) :
    (s.writeTicks m fr n).mem.wf := by
  induction n with
  | zero => exact h
  | succ n ih => exact Memory.wf_write ih _ _

/-- Buffer writes change memory alone. -/
theorem State.writeTicks_eq (m : Nat) (fr : Half) (n : Nat) :
    s.writeTicks m fr n = { s with mem := (s.writeTicks m fr n).mem } := by
  induction n with
  | zero => rfl
  | succ n ih =>
    unfold State.writeTicks
    rw [ih]
    rfl

@[simp] theorem State.writeTicks_plat (m : Nat) (fr : Half) (n : Nat) : (s.writeTicks m fr n).plat = s.plat := by
  rw [State.writeTicks_eq]
@[simp] theorem State.writeTicks_prog (m : Nat) (fr : Half) (n : Nat) : (s.writeTicks m fr n).prog = s.prog := by
  rw [State.writeTicks_eq]
@[simp] theorem State.writeTicks_cpu (m : Nat) (fr : Half) (n : Nat) : (s.writeTicks m fr n).cpu = s.cpu := by
  rw [State.writeTicks_eq]
@[simp] theorem State.writeTicks_motors (m : Nat) (fr : Half) (n : Nat) : (s.writeTicks m fr n).motors = s.motors := by
  rw [State.writeTicks_eq]
@[simp] theorem State.writeTicks_reg (m : Nat) (fr : Half) (n : Nat) : (s.writeTicks m fr n).reg = s.reg := by
  rw [State.writeTicks_eq]
@[simp] theorem State.writeTicks_groups (m : Nat) (fr : Half) (n : Nat) : (s.writeTicks m fr n).groups = s.groups := by
  rw [State.writeTicks_eq]
@[simp] theorem State.writeTicks_pins (m : Nat) (fr : Half) (n : Nat) : (s.writeTicks m fr n).pins = s.pins := by
  rw [State.writeTicks_eq]
@[simp] theorem State.writeTicks_fault (m : Nat) (fr : Half) (n : Nat) : (s.writeTicks m fr n).fault = s.fault := by
  rw [State.writeTicks_eq]
@[simp] theorem State.writeTicks_sched (m : Nat) (fr : Half) (n : Nat) : (s.writeTicks m fr n).sched = s.sched := by
  rw [State.writeTicks_eq]
@[simp] theorem State.writeTicks_choices (m : Nat) (fr : Half) (n : Nat) : (s.writeTicks m fr n).choices = s.choices := by
  rw [State.writeTicks_eq]

@[simp] theorem State.motor_writeTicks (m : Nat) (fr : Half) (n k : Nat) : (s.writeTicks m fr n).motor k = s.motor k :=
  State.motor_eq (s.writeTicks_motors m fr n) k

@[simp] theorem State.nm_writeTicks (m : Nat) (fr : Half) (n : Nat) : (s.writeTicks m fr n).nm = s.nm := by
  simp [State.nm]

end Sys2Proof.Machine
end

