-- ==== Sys2Proof/Laws/Registry.lean ====
section
/-! SUPPORT. What GET_OR_CREATE can answer (41_timer_registry.md R140, R141). -/

namespace Sys2Proof.Machine

/-- A found index holds the identity. -/
theorem timerIndex_some {ids : List TimerId} {t : TimerId} {i : Nat} (h : timerIndex ids t = some i) : ids[i]? = some t := by
  induction ids generalizing i with
  | nil => simp [timerIndex] at h
  | cons a rest ih =>
    unfold timerIndex at h
    split_ifs at h with ha
    · cases h
      simp [ha]
    · obtain ⟨j, hj, rfl⟩ := Option.map_eq_some_iff.1 h
      simpa using ih hj

/-- No index is found exactly for an identity not registered. -/
theorem timerIndex_none {ids : List TimerId} {t : TimerId} : timerIndex ids t = none ↔ t ∉ ids := by
  induction ids with
  | nil => simp [timerIndex]
  | cons a rest ih =>
    unfold timerIndex
    by_cases ha : a = t
    · simp [ha]
    · simp [ha, ih, Ne.symm ha]

/-- The two answers of GET_OR_CREATE: an identity found, with nothing written, or one appended below the capacity. -/
theorem getOrCreate_cases {nt : Nat} {ids : List TimerId} {t : TimerId} {r : Lookup} (h : getOrCreate nt ids t = some r) :
    (∃ i, ids[i]? = some t ∧ i < ids.length ∧ r = ⟨i, false, ids⟩) ∨
    (t ∉ ids ∧ ids.length < nt ∧ r = ⟨ids.length, true, ids ++ [t]⟩) := by
  unfold getOrCreate at h
  split at h
  · next i hi =>
    have := timerIndex_some hi
    exact .inl ⟨i, this, (List.getElem?_eq_some_iff.1 this).1, by simpa using h.symm⟩
  · next hn =>
    split_ifs at h with hl
    exact .inr ⟨timerIndex_none.1 hn, hl, by simpa using h.symm⟩

/-- GET_OR_CREATE has no answer exactly when the registry is full and the identity new (R142). -/
theorem getOrCreate_none {nt : Nat} {ids : List TimerId} {t : TimerId} :
    getOrCreate nt ids t = none ↔ t ∉ ids ∧ nt ≤ ids.length := by
  unfold getOrCreate
  split
  · next i hi =>
    have : timerIndex ids t ≠ none := by simp [hi]
    rw [Ne, timerIndex_none, not_not] at this
    simp [this]
  · next hn =>
    have := timerIndex_none.1 hn
    by_cases hl : ids.length < nt
    · simp [this, hl]
    · simp [this, hl]
      omega

end Sys2Proof.Machine
end

