-- ==== Sys2Proof/Laws/Commands.lean ====
section
/-! SUPPORT. Everything each command can answer: the inversion lemmas that later proofs cite instead of unfolding a
meaning. -/

namespace Sys2Proof.Machine

/-- ENCODE raises one of its three faults, or arms the motor (40_encoder.md R116). -/
theorem execEncode_next {m : Nat} {th : Half} {s t : State} (h : execEncode m th s = .next t) :
    (¬ m < s.nm ∧ t = s.raiseFault ⟨.badMotorIndex, some m, .motorIndex .motorField⟩) ∨
    (m < s.nm ∧ (s.motor m).chan.bound = none ∧ t = s.raiseFault ⟨.notConfigured, some m, .motorChannel⟩) ∨
    (∃ bd, m < s.nm ∧ (s.motor m).chan.bound = some bd ∧ (s.motor m).dma.en = true ∧
      t = s.raiseFault ⟨.encodeWhileStreamEnabled, some m, .stream bd.stream⟩) ∨
    (∃ bd, m < s.nm ∧ (s.motor m).chan.bound = some bd ∧ (s.motor m).dma.en = false ∧ t = s.encodeMotor m th) := by
  unfold execEncode at h
  by_cases hm : m < s.nm
  · rw [if_neg (not_not.2 hm)] at h
    split at h
    · next hb =>
      cases h
      exact .inr (.inl ⟨hm, hb, rfl⟩)
    · next bd hb =>
      split_ifs at h with he
      · cases h
        exact .inr (.inr (.inl ⟨bd, hm, hb, he, rfl⟩))
      · cases h
        exact .inr (.inr (.inr ⟨bd, hm, hb, by simpa using he, rfl⟩))
  · rw [if_pos hm] at h
    cases h
    exact .inl ⟨hm, rfl⟩

/-- TC_HANDLER raises code 4, or completes its motor's transfer (43_completion_handler.md R170). -/
theorem execTcHandler_next {m : Nat} {s t : State} (h : execTcHandler m s = .next t) :
    (¬ m < s.nm ∧ t = s.raiseFault ⟨.badMotorIndex, some m, .motorIndex .tag⟩) ∨
    (m < s.nm ∧ t = (s.completeTransfer m).advance) := by
  unfold execTcHandler at h
  split_ifs at h with hm
  · cases h
    exact .inr ⟨hm, rfl⟩
  · cases h
    exact .inl ⟨hm, rfl⟩

/-- COMPLETE_UPDATE_CYCLE restarts the group it is at, and goes on or is over (44_batch_update.md R180, R182). -/
theorem execCompleteUpdateCycle_next {s t : State} (h : execCompleteUpdateCycle s = .next t) :
    (s.cpu.batch + 1 < s.regCount ∧ t = { s.restartCurrent with cpu := { s.cpu with batch := s.cpu.batch + 1 } }) ∨
    (¬ s.cpu.batch + 1 < s.regCount ∧
      t = { s.restartCurrent with cpu := { s.cpu with batch := 0, hpc := s.cpu.hpc + 1 } }) := by
  unfold execCompleteUpdateCycle at h
  split_ifs at h with hb
  · cases h
    exact .inl ⟨hb, rfl⟩
  · cases h
    exact .inr ⟨hb, rfl⟩

/-- A configuration that succeeds binds the motor: the first caller on a started time base, a later one on the group as it
is (42_configurator.md R153, R154, R156). -/
theorem State.configureFrom_next {s t : State} {m : Nat} {v : Variant} {b : Binding} {c : Channel} {r : Lookup}
    (h : s.configureFrom m v b c r = .next t) :
    (r.created = false ∧ t = s.bindMotor m b c r.index (s.group r.index) r.ids) ∨
    (∃ psc, r.created = true ∧ prescaler s.plat b.timerId v = some psc ∧
      t = s.bindMotor m b c r.index (((s.group r.index).timeBase b.timerId v psc).start) r.ids) := by
  unfold State.configureFrom at h
  split_ifs at h with hc
  · split at h
    · cases h
    · next psc hp =>
      cases h
      exact .inr ⟨psc, hc, hp, rfl⟩
  · cases h
    exact .inl ⟨by simpa using hc, rfl⟩

/-- The checks have passed for binding `b` on channel `c` (42_configurator.md R150, codes 4, 5, 3, 1, 9, 8). -/
structure ConfigureAdmitted (s : State) (m : Nat) (b : Binding) (c : Channel) : Prop where
  in_range : m < s.nm
  unbound : (s.motor m).chan.bound = none
  binding : platBinding s.plat m = some b
  selector : Channel.ofSelector b.channel = some c
  no_conflict : s.bindingConflict m b c = none

/-- CONFIGURE raises a fault, or binds the motor after its checks (R150). -/
theorem execConfigure_next {m : Nat} {v : Variant} {s t : State} (h : execConfigure m v s = .next t) :
    (∃ f, t = s.raiseFault f) ∨
    (∃ b c r, ConfigureAdmitted s m b c ∧ getOrCreate s.nt s.reg b.timerId = some r ∧
      s.configureFrom m v b c r = .next t) := by
  unfold execConfigure at h
  by_cases hm : m < s.nm
  swap
  · rw [if_pos hm] at h
    cases h
    exact .inl ⟨_, rfl⟩
  rw [if_neg (not_not.2 hm)] at h
  by_cases hc : (s.motor m).chan.cfg = true
  · rw [if_pos hc] at h
    cases h
    exact .inl ⟨_, rfl⟩
  · rw [if_neg hc] at h
    split at h
    · cases h
    · next b hb =>
      split at h
      · cases h
        exact .inl ⟨_, rfl⟩
      · next c hsel =>
        split at h
        · next f hf =>
          cases h
          exact .inl ⟨f, rfl⟩
        · next hf =>
          split at h
          · cases h
            exact .inl ⟨_, rfl⟩
          · next r hr =>
            exact .inr ⟨b, c, r, ⟨hm, by simpa [MotorChannel.cfg] using hc, hb, hsel, hf⟩, hr, h⟩

/-! ### The effects that bind a motor -/

variable (s : State) (m : Nat) (b : Binding) (c : Channel) (i : Nat) (g : Group) (ids : List TimerId)

@[simp] theorem State.bindMotor_plat : (s.bindMotor m b c i g ids).plat = s.plat := rfl
@[simp] theorem State.bindMotor_prog : (s.bindMotor m b c i g ids).prog = s.prog := rfl
@[simp] theorem State.bindMotor_reg : (s.bindMotor m b c i g ids).reg = ids := rfl
@[simp] theorem State.bindMotor_mem : (s.bindMotor m b c i g ids).mem = s.mem := rfl
@[simp] theorem State.bindMotor_fault : (s.bindMotor m b c i g ids).fault = s.fault := rfl
@[simp] theorem State.bindMotor_sched : (s.bindMotor m b c i g ids).sched = s.sched := rfl
@[simp] theorem State.bindMotor_choices : (s.bindMotor m b c i g ids).choices = s.choices := rfl
@[simp] theorem State.bindMotor_pins : (s.bindMotor m b c i g ids).pins = (s.claimPin b.pin m b.af).pins := rfl
@[simp] theorem State.bindMotor_cpu :
    (s.bindMotor m b c i g ids).cpu = { s.cpu with hpc := s.cpu.hpc + 1 } := rfl
@[simp] theorem State.bindMotor_nm : (s.bindMotor m b c i g ids).nm = s.nm := List.length_set
@[simp] theorem State.bindMotor_nt : (s.bindMotor m b c i g ids).nt = s.nt := List.length_set

/-- CONFIGURE changes its own motor alone. -/
theorem State.bindMotor_motor (n : Nat) : (s.bindMotor m b c i g ids).motor n =
    if n = m ∧ m < s.nm then (s.motor m).configured m i c b else s.motor n := by
  unfold State.bindMotor
  rw [State.motor_advance, State.motor_setMotor]
  rfl

/-- CONFIGURE changes its own group alone. -/
theorem State.bindMotor_group (j : Nat) : (s.bindMotor m b c i g ids).group j =
    if j = i ∧ i < s.nt then g.addChannel c else s.group j := by
  unfold State.bindMotor
  rw [State.group_advance, State.group_setMotor, State.group_setGroup]
  rfl

/-! ### The other commands' effects -/

variable (th : Half)

@[simp] theorem State.encodeMotor_plat : (s.encodeMotor m th).plat = s.plat := by
  simp [State.encodeMotor]
@[simp] theorem State.encodeMotor_prog : (s.encodeMotor m th).prog = s.prog := by
  simp [State.encodeMotor]
@[simp] theorem State.encodeMotor_reg : (s.encodeMotor m th).reg = s.reg := by
  simp [State.encodeMotor]
@[simp] theorem State.encodeMotor_groups : (s.encodeMotor m th).groups = s.groups := by
  simp [State.encodeMotor]
@[simp] theorem State.encodeMotor_pins : (s.encodeMotor m th).pins = s.pins := by
  simp [State.encodeMotor]
@[simp] theorem State.encodeMotor_fault : (s.encodeMotor m th).fault = s.fault := by
  simp [State.encodeMotor]
@[simp] theorem State.encodeMotor_sched : (s.encodeMotor m th).sched = s.sched := by
  simp [State.encodeMotor]
@[simp] theorem State.encodeMotor_choices : (s.encodeMotor m th).choices = s.choices := by
  simp [State.encodeMotor]
@[simp] theorem State.encodeMotor_cpu : (s.encodeMotor m th).cpu = { s.cpu with hpc := s.cpu.hpc + 1 } := by
  simp [State.encodeMotor]
@[simp] theorem State.encodeMotor_mem :
    (s.encodeMotor m th).mem = (s.writeTicks m (frame th) Config.bufLen).mem := by
  simp [State.encodeMotor]

/-- ENCODE changes its own motor alone. -/
theorem State.encodeMotor_motor (n : Nat) : (s.encodeMotor m th).motor n =
    if n = m ∧ m < s.nm then
      { (s.motor m) with chan := { (s.motor m).chan with last := some th }, dma := (s.motor m).dma.armed }
    else s.motor n := by
  unfold State.encodeMotor
  rw [State.motor_advance, State.motor_setMotor, State.nm_writeTicks, State.motor_writeTicks]

/-- The handler changes its own motor alone. -/
theorem State.completeTransfer_motor (n : Nat) : (s.completeTransfer m).motor n =
    if n = m ∧ m < s.nm then { (s.motor m) with dma := (s.motor m).dma.completed } else s.motor n :=
  State.motor_setMotor _ _ _ _

/-- A batch step changes the group it is at alone, and only below `REG.count`. -/
theorem State.restartCurrent_group (j : Nat) : s.restartCurrent.group j =
    if j = s.cpu.batch ∧ s.cpu.batch < s.regCount ∧ s.cpu.batch < s.nt then (s.group j).restart else s.group j := by
  unfold State.restartCurrent
  split_ifs with h1 h2 h2
  · rw [State.group_setGroup, if_pos ⟨h2.1, h2.2.2⟩, h2.1]
  · rw [State.group_setGroup, if_neg]
    tauto
  · exact absurd h2.2.1 h1
  · rfl

end Sys2Proof.Machine
end

