-- ==== Sys2Proof/Laws/Invariant.lean ====
section
/-! SUPPORT. A check over the motors and groups a state has, from which its invariant follows: a concrete state's invariant
is then one evaluation. -/

namespace Sys2Proof.Machine

/-- `compareValue` as a check. -/
def isCompareValue (v : Half) : Bool := v == 0#16 || v == 14#16 || v == 29#16

/-- `Group.Running` as a check. -/
def Group.isRunning (g : Group) : Bool :=
  g.tb && g.variant.isSome && g.arr == 39#16 && decide (g.cnt ≤ 39#16) && g.cen && g.arpe && g.moe

/-- `CompareUnit.Active` as a check. -/
def CompareUnit.isActive (x : CompareUnit) : Bool :=
  x.src && x.dier && decide (x.mode = .pwm) && x.ocpe && isCompareValue x.ccr && isCompareValue x.ccrp

/-- `DmaStream.Consistent` as a check. -/
def DmaStream.isConsistent (d : DmaStream) : Bool :=
  decide (d.ndtr ≤ 16#16) && (d.en || d.ndtr == 0#16) && d.tcif == (d.en && d.ndtr == 0#16)

/-- What the invariant asks of group `i`. -/
def State.groupCheck (s : State) (i : Nat) : Bool :=
  if s.reg.length ≤ i then decide (s.group i = Group.reset)
  else (s.group i).isRunning && decide ((s.group i).tid = s.reg[i]?)

/-- What the invariant asks of channel `c` of group `i`. -/
def State.channelCheck (s : State) (i : Nat) (c : Channel) : Bool :=
  if (List.range s.nm).any fun m => (s.motor m).chan.boundTo i c then ((s.group i).chan c).isActive
  else decide ((s.group i).chan c = CompareUnit.reset)

/-- What the invariant asks of the bindings of motors `m` and `n` together. -/
def State.pairCheck (s : State) (m n : Nat) : Bool :=
  match (s.motor m).chan.bound, (s.motor n).chan.bound with
  | some bd, some bd' => decide (m = n) || !(decide (bd.grp = bd'.grp ∧ bd.ch = bd'.ch) || decide (bd.stream = bd'.stream))
  | _, _ => true

/-- What the invariant asks of motor `m` by itself. -/
def State.motorCheck (s : State) (m : Nat) : Bool :=
  (match (s.motor m).chan.bound with
    | none => decide (s.motor m = Motor.reset)
    | some bd => decide (bd.grp < s.reg.length) && decide ((s.pin bd.pin).owner = .motor m) && (s.motor m).dma.tcie &&
        (s.motor m).hreg && decide ((s.motor m).dma.setup = some (streamSetup m bd.grp bd.ch))) &&
  (s.motor m).dma.isConsistent &&
  (!(s.motor m).dma.en ||
    (List.range 16).all fun k => decide (s.readTick m k = some 14#8) || decide (s.readTick m k = some 29#8))

/-- The word at `CPU.hpc` is COMPLETE_UPDATE_CYCLE's. -/
def State.atBatchCommand (s : State) : Bool :=
  match s.prog[s.cpu.hpc]? with
  | none => false
  | some w => match decode w with
    | .ok .completeUpdateCycle => true
    | _ => false

/-- The invariant over the motors and groups the state has. -/
def State.invCheck (s : State) : Bool :=
  decide (s.mem.wf ∧ pinsWf s.pins ∧ s.reg.length ≤ s.nt ∧ s.reg.Nodup ∧
    (s.cpu.batch = 0 ∨ s.cpu.batch < s.reg.length) ∧ (s.cpu.batch = 0 ∨ s.atBatchCommand = true) ∧ s.cpu.saved = none) &&
  ((List.range s.nt).all fun i => s.groupCheck i && Channel.all.all fun c => s.channelCheck i c) &&
  ((List.range s.nm).all fun m => s.motorCheck m && (List.range s.nm).all fun n => s.pairCheck m n)

theorem compareValue_of_check {v : Half} (h : isCompareValue v = true) : compareValue v := by
  simpa [isCompareValue, compareValue, or_assoc] using h

theorem Group.running_of_check {g : Group} (h : g.isRunning = true) : g.Running := by
  simp only [Group.isRunning, Bool.and_eq_true, beq_iff_eq, decide_eq_true_eq] at h
  obtain ⟨⟨⟨⟨⟨⟨h1, h2⟩, h3⟩, h4⟩, h5⟩, h6⟩, h7⟩ := h
  exact ⟨h1, fun hn => by simp [hn] at h2, h3, h4, h5, h6, h7⟩

theorem CompareUnit.active_of_check {x : CompareUnit} (h : x.isActive = true) : x.Active := by
  simp only [CompareUnit.isActive, Bool.and_eq_true, decide_eq_true_eq] at h
  obtain ⟨⟨⟨⟨⟨h1, h2⟩, h3⟩, h4⟩, h5⟩, h6⟩ := h
  exact ⟨h1, h2, h3, h4, compareValue_of_check h5, compareValue_of_check h6⟩

theorem DmaStream.consistent_of_check {d : DmaStream} (h : d.isConsistent = true) : d.Consistent := by
  simp only [DmaStream.isConsistent, Bool.and_eq_true, Bool.or_eq_true, beq_iff_eq, decide_eq_true_eq] at h
  obtain ⟨⟨h1, h2⟩, h3⟩ := h
  refine ⟨h1, fun he => ?_, ?_⟩
  · rcases h2 with h2 | h2
    · simp [he] at h2
    · exact h2
  · rw [h3]
    simp

theorem State.batchCommand_of_check {s : State} (h : s.atBatchCommand = true) :
    ∃ w, s.prog[s.cpu.hpc]? = some w ∧ decode w = .ok .completeUpdateCycle := by
  unfold State.atBatchCommand at h
  split at h
  · cases h
  · next w hw =>
    split at h
    · exact ⟨w, hw, by assumption⟩
    · cases h

/-- A bound motor is one the state has. -/
theorem State.bound_in_range {s : State} {m : Nat} {bd : Bound} (h : (s.motor m).chan.bound = some bd) : m < s.nm := by
  by_contra hm
  rw [State.motor_out_of_range s (not_lt.1 hm)] at h
  cases h

/-- The invariant follows from its check. -/
theorem inv_of_check {s : State} (h : s.invCheck = true) : Inv s := by
  simp only [State.invCheck, Bool.and_eq_true, decide_eq_true_eq, List.all_eq_true, List.mem_range] at h
  obtain ⟨⟨⟨h1, h2, h3, h4, h5, hc, h6⟩, hg⟩, hm⟩ := h
  have group_ok : ∀ i, s.groupCheck i = true := fun i => by
    by_cases hi : i < s.nt
    · exact (hg i hi).1
    · have hr : s.reg.length ≤ i := h3.trans (not_lt.1 hi)
      simp [State.groupCheck, hr, State.group_out_of_range s (not_lt.1 hi)]
  have bound_range : ∀ m bd, (s.motor m).chan.bound = some bd → s.motorCheck m = true := fun m bd hb =>
    (hm m (State.bound_in_range hb)).1
  have motor_ok : ∀ m, s.motorCheck m = true := fun m => by
    by_cases hi : m < s.nm
    · exact (hm m hi).1
    · simp [State.motorCheck, State.motor_out_of_range s (not_lt.1 hi), Motor.reset, DmaStream.isConsistent]
  have pair_ok : ∀ m n bd bd', (s.motor m).chan.bound = some bd → (s.motor n).chan.bound = some bd' →
      m = n ∨ ¬(bd.grp = bd'.grp ∧ bd.ch = bd'.ch) ∧ bd.stream ≠ bd'.stream := fun m n bd bd' hb hb' => by
    have := (hm m (State.bound_in_range hb)).2 n (State.bound_in_range hb')
    simpa [State.pairCheck, hb, hb', not_and_or, -not_and] using this
  have consistent : ∀ m, (s.motor m).dma.isConsistent = true := fun m => by
    have := motor_ok m
    simp only [State.motorCheck, Bool.and_eq_true] at this
    exact this.1.2
  have facts : ∀ m bd, (s.motor m).chan.bound = some bd → bd.grp < s.reg.length ∧ (s.pin bd.pin).owner = .motor m ∧
      (s.motor m).dma.tcie = true ∧ (s.motor m).hreg = true ∧
      (s.motor m).dma.setup = some (streamSetup m bd.grp bd.ch) := fun m bd hb => by
    have := bound_range m bd hb
    simp only [State.motorCheck, hb, Bool.and_eq_true, decide_eq_true_eq] at this
    obtain ⟨⟨⟨⟨⟨⟨a, b⟩, c⟩, d⟩, e⟩, -⟩, -⟩ := this
    exact ⟨a, b, c, d, e⟩
  refine
    { mem_canonical := h1, pins_canonical := h2, reg_fits := h3, reg_distinct := h4, batch_in_range := h5
      batch_command := fun hb => State.batchCommand_of_check (hc.resolve_left hb)
      main_context := h6
      group_fresh := fun i hi => by simpa [State.groupCheck, hi] using group_ok i
      group_running := fun i hi => ?_
      group_timer := fun i hi => ?_
      channel_fresh := fun i c hc => ?_
      channel_active := fun i c m hb => ?_
      bound_registered := fun m bd hb => (facts m bd hb).1
      one_motor_per_channel := fun m n bd bd' hb hb' h1 h2 => ?_
      one_motor_per_stream := fun m n bd bd' hb hb' h1 => ?_
      pin_owned := fun m bd hb => (facts m bd hb).2.1
      motor_fresh := fun m hb => ?_
      motor_ready := fun m bd hb => (facts m bd hb).2.2
      stream_consistent := fun m => DmaStream.consistent_of_check (consistent m)
      buffer_written := fun m k he hk => ?_ }
  · have := group_ok i
    simp only [State.groupCheck, not_le.2 hi, if_false, Bool.and_eq_true] at this
    exact Group.running_of_check this.1
  · have := group_ok i
    simp only [State.groupCheck, not_le.2 hi, if_false, Bool.and_eq_true, decide_eq_true_eq] at this
    exact this.2
  · by_cases hi : i < s.nt
    · have := (hg i hi).2 c (Channel.mem_all c)
      simpa [State.channelCheck, hc] using this
    · rw [State.group_out_of_range s (not_lt.1 hi)]
      cases c <;> rfl
  · have hm' : m < s.nm := by
      by_contra hn
      rw [State.motor_out_of_range s (not_lt.1 hn)] at hb
      cases hb
    obtain ⟨bd, hbd⟩ : ∃ bd, (s.motor m).chan.bound = some bd := by
      unfold MotorChannel.boundTo at hb
      split at hb
      · exact ⟨_, by assumption⟩
      · cases hb
    have hi : i < s.nt := by
      have hgr : bd.grp = i := by
        have := hb
        simp only [MotorChannel.boundTo, hbd, decide_eq_true_eq] at this
        exact this.1
      have := (facts m bd hbd).1
      omega
    have := (hg i hi).2 c (Channel.mem_all c)
    rw [State.channelCheck, if_pos (List.any_eq_true.2 ⟨m, List.mem_range.2 hm', hb⟩)] at this
    exact CompareUnit.active_of_check this
  · rcases pair_ok m n bd bd' hb hb' with h | h
    · exact h
    · exact absurd ⟨h1, h2⟩ h.1
  · rcases pair_ok m n bd bd' hb hb' with h | h
    · exact h
    · exact absurd h1 h.2
  · have := motor_ok m
    simp only [State.motorCheck, hb, Bool.and_eq_true, decide_eq_true_eq] at this
    exact this.1.1
  · have := motor_ok m
    simp only [State.motorCheck, Bool.and_eq_true, he, Bool.not_true, Bool.false_or, List.all_eq_true, List.mem_range,
      Bool.or_eq_true, decide_eq_true_eq] at this
    exact this.2 k hk

end Sys2Proof.Machine
end

