-- ==== Sys2Proof/Laws/PerInstr.lean ====
section
/-! SUPPORT. A family of one lemma per command: its encoding has the bits of its own row of the opcode table
(30_encoding.md R89). -/

namespace Sys2Proof.Laws.EncodingHasRowBits

/-- The command's word has its row's fixed bits. -/
def Statement (i : Instr) : Prop := (opcodeRow i).covers (encode i) = true

theorem configure (m : Nat) (v : Variant) : Statement (.configure m v) := by
  refine decide_eq_true ?_
  cases v <;> simp only [opcodeRow, Sys2Proof.encode, packWord, bitOfVariant] <;> ext j hj <;> interval_cases j <;> simp

theorem encode (m : Nat) (throttle : Half) : Statement (.encode m throttle) := by
  refine decide_eq_true ?_
  simp only [opcodeRow, Sys2Proof.encode, packWord]
  ext j hj
  interval_cases j <;> simp

theorem completeUpdateCycle : Statement .completeUpdateCycle := decide_eq_true (by decide)

theorem tcHandler (tag : Nat) : Statement (.tcHandler tag) := by
  refine decide_eq_true ?_
  simp only [opcodeRow, Sys2Proof.encode, packWord]
  ext j hj
  interval_cases j <;> simp

end Sys2Proof.Laws.EncodingHasRowBits
end

