-- ==== Sys2Proof/Laws/Streamer.lean ====
section
/-! SUPPORT. What a timer step and a DMA transfer can do (45_streamer.md). -/

namespace Sys2Proof.Machine

/-! ### The group's own part of a tick -/

variable (g : Group)

/-- The counter wraps in this step (45_streamer.md R191). -/
abbrev Group.wraps (g : Group) : Prop := g.arr ≤ g.cnt

@[simp] theorem Group.tick_tid : g.tick.tid = g.tid := by unfold Group.tick Group.drive Group.count; split <;> rfl
@[simp] theorem Group.tick_tb : g.tick.tb = g.tb := by unfold Group.tick Group.drive Group.count; split <;> rfl
@[simp] theorem Group.tick_variant : g.tick.variant = g.variant := by unfold Group.tick Group.drive Group.count; split <;> rfl
@[simp] theorem Group.tick_psc : g.tick.psc = g.psc := by unfold Group.tick Group.drive Group.count; split <;> rfl
@[simp] theorem Group.tick_arr : g.tick.arr = g.arr := by unfold Group.tick Group.drive Group.count; split <;> rfl
@[simp] theorem Group.tick_cen : g.tick.cen = g.cen := by unfold Group.tick Group.drive Group.count; split <;> rfl
@[simp] theorem Group.tick_arpe : g.tick.arpe = g.arpe := by unfold Group.tick Group.drive Group.count; split <;> rfl
@[simp] theorem Group.tick_moe : g.tick.moe = g.moe := by unfold Group.tick Group.drive Group.count; split <;> rfl
@[simp] theorem Group.tick_dir : g.tick.dir = g.dir := by unfold Group.tick Group.drive Group.count; split <;> rfl

/-- The counter after a tick. -/
theorem Group.tick_cnt : g.tick.cnt = if g.wraps then 0#16 else g.cnt + 1#16 := by
  unfold Group.tick Group.drive Group.count
  split <;> simp_all

/-- The channel after the counter's change, before its output is driven. -/
theorem Group.count_chan (c : Channel) : g.count.chan c = if g.wraps then (g.chan c).update else g.chan c := by
  unfold Group.count Group.chan
  split <;> simp_all

/-- A channel after a tick: the update event, then the output of a PWM channel. -/
theorem Group.tick_chan (c : Channel) :
    g.tick.chan c = if (g.count.chan c).mode = .pwm then { g.count.chan c with out := g.count.output (g.count.chan c) }
      else g.count.chan c :=
  PerChannel.get_map _ _ c

@[simp] theorem CompareUnit.update_src (x : CompareUnit) : x.update.src = x.src := by unfold CompareUnit.update; split <;> rfl
@[simp] theorem CompareUnit.update_dier (x : CompareUnit) : x.update.dier = x.dier := by
  unfold CompareUnit.update; split <;> rfl
@[simp] theorem CompareUnit.update_mode (x : CompareUnit) : x.update.mode = x.mode := by
  unfold CompareUnit.update; split <;> rfl
@[simp] theorem CompareUnit.update_ocpe (x : CompareUnit) : x.update.ocpe = x.ocpe := by
  unfold CompareUnit.update; split <;> rfl
@[simp] theorem CompareUnit.update_ccrp (x : CompareUnit) : x.update.ccrp = x.ccrp := by
  unfold CompareUnit.update; split <;> rfl
@[simp] theorem CompareUnit.update_out (x : CompareUnit) : x.update.out = x.out := by unfold CompareUnit.update; split <;> rfl

@[simp] theorem Group.tick_chan_src (c : Channel) : (g.tick.chan c).src = (g.chan c).src := by
  rw [Group.tick_chan, Group.count_chan]; split_ifs <;> simp
@[simp] theorem Group.tick_chan_dier (c : Channel) : (g.tick.chan c).dier = (g.chan c).dier := by
  rw [Group.tick_chan, Group.count_chan]; split_ifs <;> simp
@[simp] theorem Group.tick_chan_mode (c : Channel) : (g.tick.chan c).mode = (g.chan c).mode := by
  rw [Group.tick_chan, Group.count_chan]; split_ifs <;> simp
@[simp] theorem Group.tick_chan_ocpe (c : Channel) : (g.tick.chan c).ocpe = (g.chan c).ocpe := by
  rw [Group.tick_chan, Group.count_chan]; split_ifs <;> simp
@[simp] theorem Group.tick_chan_ccrp (c : Channel) : (g.tick.chan c).ccrp = (g.chan c).ccrp := by
  rw [Group.tick_chan, Group.count_chan]; split_ifs <;> simp

/-- The active compare value after a tick: the preload at an update event with preload enabled (R192). -/
theorem Group.tick_chan_ccr (c : Channel) :
    (g.tick.chan c).ccr = if g.wraps ∧ (g.chan c).ocpe = true then (g.chan c).ccrp else (g.chan c).ccr := by
  rw [Group.tick_chan, Group.count_chan]
  by_cases h : g.wraps <;> by_cases h2 : (g.chan c).ocpe = true <;> simp [h, h2, CompareUnit.update] <;> split_ifs <;> rfl

/-! ### The DMA transfer -/

variable (s : State)

/-- A served request leaves the state, or makes one transfer of the motor bound to the channel (R196). -/
theorem State.dmaRequest_ok {s s' : State} {i : Nat} {c : Channel} (h : s.dmaRequest i c = .ok s') :
    s' = s ∨ ∃ m v, s.servedMotor i c = some m ∧ (s.motor m).dma.en = true ∧ (s.motor m).dma.ndtr ≠ 0#16 ∧
      s.nextEntry m = some v ∧ s' = s.transfer i c m v := by
  unfold State.dmaRequest at h
  split at h
  · exact .inl (by simpa using h.symm)
  · next m hm =>
    split_ifs at h with hd
    · split at h
      · cases h
      · next v hv => exact .inr ⟨m, v, hm, hd.1, hd.2, hv, by simpa using h.symm⟩
    · exact .inl (by simpa using h.symm)

/-- A request fails only with code 11, on an enabled stream whose next entry holds no value (60_exceptions.md R222). -/
theorem State.dmaRequest_error {s : State} {i : Nat} {c : Channel} {f : FaultRecord} (h : s.dmaRequest i c = .error f) :
    ∃ m, s.servedMotor i c = some m ∧ (s.motor m).dma.en = true ∧ (s.motor m).dma.ndtr ≠ 0#16 ∧ s.nextEntry m = none ∧
      f = ⟨.unwrittenRead, some m, .bufferEntry⟩ := by
  unfold State.dmaRequest at h
  split at h
  · cases h
  · next m hm =>
    split_ifs at h with hd
    split at h
    · next hv => exact ⟨m, hm, hd.1, hd.2, hv, by simpa using h.symm⟩
    · cases h

/-- The served motor is bound to the channel. -/
theorem State.servedMotor_some {s : State} {i : Nat} {c : Channel} {m : Nat} (h : s.servedMotor i c = some m) :
    m < s.nm ∧ (s.motor m).chan.boundTo i c = true := by
  have := List.find?_some h
  exact ⟨by simpa using List.mem_of_find?_eq_some h, this⟩

/-- What every transfer keeps, serving the channels keeps. -/
theorem State.serveChannels_induction {P : State → Prop} {i : Nat} {cs : List Channel}
    (hstep : ∀ a b c, P a → a.dmaRequest i c = .ok b → P b) :
    ∀ {s s' : State}, P s → s.serveChannels i cs = .ok s' → P s' := by
  induction cs with
  | nil =>
    intro s s' hs h
    cases h
    exact hs
  | cons c rest ih =>
    intro s s' hs h
    unfold State.serveChannels at h
    split_ifs at h
    · split at h
      · cases h
      · next b hb => exact ih (hstep _ _ _ hs hb) h
    · exact ih hs h

/-- If no served request can fail, serving the channels does not. -/
theorem State.serveChannels_ok {P : State → Prop} {i : Nat} {cs : List Channel}
    (hstep : ∀ a b c, P a → a.dmaRequest i c = .ok b → P b) (hok : ∀ a c f, P a → a.dmaRequest i c ≠ .error f) :
    ∀ {s : State}, P s → ∃ s', s.serveChannels i cs = .ok s' := by
  induction cs with
  | nil => exact fun _ => ⟨_, rfl⟩
  | cons c rest ih =>
    intro s hs
    unfold State.serveChannels
    split_ifs
    · split
      · next f hf => exact absurd hf (hok _ _ _ hs)
      · next b hb => exact ih (hstep _ _ _ hs hb)
    · exact ih hs

/-- A timer step is the tick with its requests served, or, on code 11, the fault alone (R191, R220 b). -/
theorem State.timerStep_cases (i : Nat) :
    (s.setGroup i (s.group i).tick).serveChannels i Channel.all = .ok (s.timerStep i) ∨
    ∃ f, (s.setGroup i (s.group i).tick).serveChannels i Channel.all = .error f ∧ s.timerStep i = s.recordFault f := by
  unfold State.timerStep
  cases h : (s.setGroup i (s.group i).tick).serveChannels i Channel.all with
  | ok s' => exact .inl rfl
  | error f => exact .inr ⟨f, rfl, rfl⟩

/-! ### One transfer's frame -/

variable (i : Nat) (c : Channel) (m : Nat) (v : Byte)

@[simp] theorem State.transfer_plat : (s.transfer i c m v).plat = s.plat := rfl
@[simp] theorem State.transfer_prog : (s.transfer i c m v).prog = s.prog := rfl
@[simp] theorem State.transfer_cpu : (s.transfer i c m v).cpu = s.cpu := rfl
@[simp] theorem State.transfer_reg : (s.transfer i c m v).reg = s.reg := rfl
@[simp] theorem State.transfer_pins : (s.transfer i c m v).pins = s.pins := rfl
@[simp] theorem State.transfer_mem : (s.transfer i c m v).mem = s.mem := rfl
@[simp] theorem State.transfer_fault : (s.transfer i c m v).fault = s.fault := rfl
@[simp] theorem State.transfer_sched : (s.transfer i c m v).sched = s.sched := rfl
@[simp] theorem State.transfer_choices : (s.transfer i c m v).choices = s.choices := rfl
@[simp] theorem State.transfer_nm : (s.transfer i c m v).nm = s.nm := List.length_set
@[simp] theorem State.transfer_nt : (s.transfer i c m v).nt = s.nt := List.length_set

/-- A transfer changes the stream of its motor alone. -/
theorem State.transfer_motor (n : Nat) :
    (s.transfer i c m v).motor n =
      if n = m ∧ m < s.nm then { (s.motor m) with dma := (s.motor m).dma.transferred } else s.motor n := by
  unfold State.transfer
  rw [State.motor_setMotor]
  rfl

/-- A transfer changes the preload of its channel alone. -/
theorem State.transfer_group (j : Nat) :
    (s.transfer i c m v).group j =
      if j = i ∧ i < s.nt then (s.group i).setChan c { (s.group i).chan c with ccrp := BitVec.setWidth 16 v }
      else s.group j := by
  unfold State.transfer State.writeCompare
  rw [State.group_setMotor, State.group_setGroup]

end Sys2Proof.Machine
end

