-- ==== Sys2Proof/Laws/Step.lean ====
section
/-! SUPPORT. Everything one step can do. -/

namespace Sys2Proof.Machine

/-- Taking the turn changes only the queue and the counter of free turns. -/
theorem State.takeTurn_eq (s : State) :
    s.takeTurn.2 = { s with sched := s.takeTurn.2.sched, choices := s.takeTurn.2.choices } := by
  unfold State.takeTurn
  split <;> rfl

@[simp] theorem State.takeTurn_motor (s : State) (m : Nat) : s.takeTurn.2.motor m = s.motor m := by
  rw [State.takeTurn_eq]; rfl
@[simp] theorem State.takeTurn_group (s : State) (i : Nat) : s.takeTurn.2.group i = s.group i := by
  rw [State.takeTurn_eq]; rfl
@[simp] theorem State.takeTurn_pin (s : State) (p : PinId) : s.takeTurn.2.pin p = s.pin p := by
  rw [State.takeTurn_eq]; rfl
@[simp] theorem State.takeTurn_plat (s : State) : s.takeTurn.2.plat = s.plat := by rw [State.takeTurn_eq]
@[simp] theorem State.takeTurn_prog (s : State) : s.takeTurn.2.prog = s.prog := by rw [State.takeTurn_eq]
@[simp] theorem State.takeTurn_cpu (s : State) : s.takeTurn.2.cpu = s.cpu := by rw [State.takeTurn_eq]
@[simp] theorem State.takeTurn_reg (s : State) : s.takeTurn.2.reg = s.reg := by rw [State.takeTurn_eq]
@[simp] theorem State.takeTurn_motors (s : State) : s.takeTurn.2.motors = s.motors := by rw [State.takeTurn_eq]
@[simp] theorem State.takeTurn_groups (s : State) : s.takeTurn.2.groups = s.groups := by rw [State.takeTurn_eq]
@[simp] theorem State.takeTurn_pins (s : State) : s.takeTurn.2.pins = s.pins := by rw [State.takeTurn_eq]
@[simp] theorem State.takeTurn_mem (s : State) : s.takeTurn.2.mem = s.mem := by rw [State.takeTurn_eq]
@[simp] theorem State.takeTurn_fault (s : State) : s.takeTurn.2.fault = s.fault := by rw [State.takeTurn_eq]

/-- A scripted turn is taken off the queue. -/
theorem State.takeTurn_cons {s : State} {t : Turn} {rest : List Turn} (h : s.sched = t :: rest) :
    s.takeTurn = (t, { s with sched := rest }) := by
  unfold State.takeTurn
  rw [h]

/-- Where the CPU may take an interrupt, it is in the main context and between commands. -/
theorem State.admitsHandler_iff (s : State) : s.admitsHandler = true ↔
    s.cpu.saved = none ∧ s.cpu.batch = 0 := by
  simp [State.admitsHandler, State.inMain]

/-- What a turn does: nothing, a host word, a pending interrupt, or a tick of a running timer. -/
theorem State.runTurn_next {s t : State} {turn : Turn} (h : s.runTurn turn = .next t) :
    t = s ∨
    (∃ w, turn = .host ∧ s.cpu.saved = none ∧ s.hostWord = some w ∧ s.runWord w = .next t) ∨
    (∃ m, turn = .handler m ∧ s.admitsHandler = true ∧ s.pending m = true ∧ t = s.takeInterrupt m) ∨
    (∃ i, turn = .timer i ∧ (s.group i).cen = true ∧ t = s.timerStep i) := by
  cases turn with
  | host =>
    simp only [State.runTurn, State.hostTurn] at h
    split_ifs at h with hm
    · split at h
      · next w hw => exact .inr (.inl ⟨w, rfl, by simpa [State.inMain] using hm, hw, h⟩)
      · exact .inl (by simpa using h.symm)
    · exact .inl (by simpa using h.symm)
  | handler m =>
    simp only [State.runTurn, State.handlerTurn] at h
    split_ifs at h with hp
    · rw [Bool.and_eq_true] at hp
      exact .inr (.inr (.inl ⟨m, rfl, hp.1, hp.2, by simpa using h.symm⟩))
    · exact .inl (by simpa using h.symm)
  | timer i =>
    simp only [State.runTurn, State.timerTurn] at h
    split_ifs at h with hc
    · exact .inr (.inr (.inr ⟨i, rfl, hc, by simpa using h.symm⟩))
    · exact .inl (by simpa using h.symm)

/-- A step that answers a next state ran one turn of a machine without a fault. -/
theorem step_next {s t : State} (h : step s = .next t) :
    s.motorCountLegal = true ∧ s.fault = none ∧ s.takeTurn.2.runTurn s.takeTurn.1 = .next t := by
  unfold step at h
  split_ifs at h with hl
  split at h
  · cases h
  · next hf => exact ⟨hl, hf, h⟩

/-- A faulted machine with a legal `NM` is halted (60_exceptions.md R220 d). -/
theorem step_halted {s : State} {f : FaultRecord} (hl : s.motorCountLegal = true) (hf : s.fault = some f) :
    step s = .fault (.halted f) := by
  simp [step, hl, hf]

/-- A word runs its command, or raises code 10 (30_encoding.md R89). -/
theorem State.runWord_next {s t : State} {w : Word} (h : s.runWord w = .next t) :
    (∃ i, decode w = .ok i ∧ exec i s = .next t) ∨
    (∃ e, decode w = .error e ∧ t = s.raiseFault ⟨.illegalCommand, none, .word w⟩) := by
  unfold State.runWord at h
  split at h
  · next i hi => exact .inl ⟨i, hi, h⟩
  · next e he => exact .inr ⟨e, he, by simpa [State.faulting] using h.symm⟩

/-- Taking an interrupt from the main context leaves the CPU as it was (60_exceptions.md R227). -/
theorem State.takeInterrupt_cpu {s : State} {m : Nat} (h : s.cpu.saved = none) : (s.takeInterrupt m).cpu = s.cpu := by
  obtain ⟨_, _, ⟨hpc, batch, saved⟩, _, _, _, _, _, _, _, _⟩ := s
  simp only at h
  subst h
  rfl

/-- Taking an interrupt changes its own motor alone. -/
theorem State.takeInterrupt_motor (s : State) (m n : Nat) : (s.takeInterrupt m).motor n =
    if n = m ∧ m < s.nm then { (s.motor m) with dma := (s.motor m).dma.completed } else s.motor n :=
  State.completeTransfer_motor s.enterInterrupt m n

/-- `placeWord` puts its word at its index. -/
theorem getElem?_placeWord (l : List Word) (k : Nat) (w : Word) : (placeWord l k w)[k]? = some w := by
  induction k generalizing l with
  | zero => cases l <;> rfl
  | succ k ih => cases l <;> simpa [placeWord] using ih _

/-- The step after `withFetchWord` runs the placed word, if `NM` is legal. -/
theorem step_withFetchWord {s : State} (hl : s.motorCountLegal = true) (nbits w : Nat) :
    step (s.withFetchWord nbits w) =
      { (s.withFetchWord nbits w) with sched := s.sched }.runWord (BitVec.ofNat 32 (w % 2 ^ nbits)) := by
  have hl' : (s.withFetchWord nbits w).motorCountLegal = true := hl
  have hw := getElem?_placeWord s.prog s.cpu.hpc (BitVec.ofNat 32 (w % 2 ^ nbits))
  unfold step
  rw [if_pos hl']
  simp [State.withFetchWord, State.takeTurn, State.runTurn, State.hostTurn, State.inMain, State.hostWord, hw]

end Sys2Proof.Machine
end

