-- ==== Sys2Proof/Tests/Slice0.lean ====
section
/-! SUPPORT. Tests with expected results from 95_test_vectors.md and the rules, and one witness for the hypotheses of every
statement (and of every clause with hypotheses of its own). -/

namespace Sys2Proof.Tests

open Sys2Proof.Machine

/-! ### WellFormed: each check refuses an ill-formed command (30_encoding.md R92: M is 0..255) -/

theorem test_wellFormed_configure_refuses_256 : (Instr.configure 256 .fast).wellFormed = false := by decide
theorem test_wellFormed_encode_refuses_256 : (Instr.encode 256 0#16).wellFormed = false := by decide
theorem test_wellFormed_tcHandler_refuses_256 : (Instr.tcHandler 256).wellFormed = false := by decide
theorem test_wellFormed_admits_255 : (Instr.tcHandler 255).wellFormed = true ∧ Instr.completeUpdateCycle.wellFormed = true := by
  decide

/-! ### Decoding: words written out from R88's patterns; the illegal ones from 95 §5.4 -/

theorem test_decode_configure : decodeTableWord 32 0b00010000000001110000000000000001 = some (.configure 7 .fast) := by decide
theorem test_decode_encode : decodeTableWord 32 0b00100000000000110000010111011100 = some (.encode 3 1500#16) := by decide
theorem test_decode_completeUpdateCycle :
    decodeTableWord 32 0b00110000000000000000000000000000 = some .completeUpdateCycle := by decide
theorem test_decode_tcHandler : decodeTableWord 32 0b01000000000000110000000000000000 = some (.tcHandler 3) := by decide
theorem test_decode_illegal : [0x00000000, 0x10000002, 0x11000000, 0x30000001, 0x30010000, 0x40000001, 0x50000000,
    0xF0000000].all (fun w => (decodeTableWord 32 w).isNone) = true := by decide
/-- 95 §3.2, §5, §6: the words of the programs. -/
theorem test_encode_words : encode (.configure 1 .fast) = 0x10010001#32 ∧ encode (.encode 0 1500#16) = 0x200005DC#32 ∧
    encode .completeUpdateCycle = 0x30000000#32 ∧ encode (.tcHandler 2) = 0x40020000#32 := by decide
/-- R92. -/
theorem test_assembler_text : assemblerText (.configure 1 .fast) = "configure 1, fast" := by decide +kernel

/-! ### The pure functions: 95 §1, §2, §3.2 -/

/-- 95 §2.1, columns throttle, VALUE, payload, frame. -/
theorem test_frame_vectors : [(1000, 0, 0, 0), (1001, 50, 0x032, 0x0642), (1023, 94, 0x05E, 0x0BC7), (1100, 248, 0x0F8, 0x1F0E),
    (1500, 1048, 0x418, 0x830B), (1999, 2046, 0x7FE, 0xFFCC), (2000, 2048, 0, 0), (2023, 2094, 0x02E, 0x05C9),
    (2024, 2096, 0x030, 0x0606), (3047, 4142, 0x02E, 0x05C9), (65535, 63582, 0x05E, 0x0BC7)].all
    (fun (th, v, p, f) => (value (BitVec.ofNat 16 th)).toNat == v && (payload (BitVec.ofNat 16 th)).toNat == p &&
      (frame (BitVec.ofNat 16 th)).toNat == f) = true := by decide +kernel
/-- 95 §2.2, frames with the telemetry bit 1. -/
theorem test_frame_telemetry : [(0, 0x0011), (48, 0x0617), (1048, 0x831A), (2047, 0xFFFF), (0x555, 0xAABB),
    (0x2AA, 0x5555)].all (fun (p, f) => (frameOfPayload (BitVec.ofNat 11 p) true).toNat == f) = true := by decide +kernel
/-- 95 §1.2. -/
theorem test_ticks_1500 :
    (frameBits 1500#16).map BitVec.toNat = [29, 14, 14, 14, 14, 14, 29, 29, 14, 14, 14, 14, 29, 14, 29, 29] := by
  decide +kernel
/-- 95 §3.2: 168 MHz gives 27 and 6. -/
theorem test_prescaler_168MHz : prescaler Platform.common ⟨0⟩ .standard = some 27#16 ∧
    prescaler Platform.common ⟨0⟩ .fast = some 6#16 := by decide +kernel
/-- 95 §3.2: 84 MHz has no FAST prescaler, 6 MHz a STANDARD one of 0. -/
theorem test_prescaler_refused : prescaler { Platform.common with sysclkHz := 84000000 } ⟨0⟩ .fast = none ∧
    prescaler { Platform.common with sysclkHz := 6000000 } ⟨0⟩ .standard = some 0#16 := by decide +kernel
/-- 95 §3.1: the row where the source's count test would be wrong, and a new identity. -/
theorem test_getOrCreate : getOrCreate 8 [⟨0⟩, ⟨1⟩] ⟨1⟩ = some ⟨1, false, [⟨0⟩, ⟨1⟩]⟩ ∧
    getOrCreate 8 [⟨0⟩, ⟨1⟩] ⟨2⟩ = some ⟨2, true, [⟨0⟩, ⟨1⟩, ⟨2⟩]⟩ := by decide
/-- R7: the bit rate is the tick rate over 40 ticks, in both variants. -/
theorem test_bit_rate : Config.tickRate .standard = Config.bitRate .standard * Config.ticksPerBit ∧
    Config.tickRate .fast = Config.bitRate .fast * Config.ticksPerBit := by decide

/-! ### Small states -/

/-- The state after a command that answers one, else the state before. -/
def after (i : Instr) (s : State) : State :=
  match exec i s with
  | .next t => t
  | _ => s

/-- A command or step answers a next state with a property. -/
def answers (r : Result) (p : State → Bool) : Bool :=
  match r with
  | .next t => p t
  | _ => false

/-- Motor 0 configured, STANDARD (95 §3.2). -/
def configured : State := after (.configure 0 .standard) State.reset
/-- Motors 0 and 1 configured on one timer. -/
def sharing : State := after (.configure 1 .fast) configured
/-- Motor 0 armed with throttle 1500. -/
def armed : State := after (.encode 0 1500#16) configured
/-- Motor 0 armed, its timer about to wrap: the next tick has a compare event at count 0 (45_streamer.md R200). -/
def atEvent : State := armed.setGroup 0 { armed.group 0 with cnt := 39#16 }
/-- As `atEvent`, with one entry left. -/
def lastEntry : State :=
  atEvent.setMotor 0 { (atEvent.motor 0) with dma := { (atEvent.motor 0).dma with ndtr := 1#16 } }
/-- Motor 0's frame copied, its handler not yet run. -/
def completed : State :=
  armed.setMotor 0 { (armed.motor 0) with dma := { (armed.motor 0).dma with ndtr := 0#16, tcif := true } }
/-- As `armed`, with an active value the counter has not reached. -/
def rearmed : State :=
  armed.setGroup 0 ((armed.group 0).setChan .ch1 { (armed.group 0).chan .ch1 with ccr := 29#16, ccrp := 14#16 })
/-- A state with a program and the turns that come next. -/
def withTurns (s : State) (words : List Word) (turns : List Turn) : State :=
  { s with prog := List.replicate s.cpu.hpc 0#32 ++ words, sched := turns }

/-! ### One command or step: 95 §3.2, §4.1, §5 -/

theorem test_configure_first : answers (exec (.configure 0 .standard) State.reset) (fun t =>
    decide (t.reg = [⟨0⟩] ∧ (t.group 0).psc = 27#16 ∧ (t.group 0).arr = 39#16 ∧ (t.group 0).variant = some .standard ∧
      (t.group 0).chan .ch1 = ⟨true, true, .pwm, true, 0#16, 0#16, false⟩ ∧
      (t.motor 0).chan.bound = some ⟨0, .ch1, ⟨0⟩, ⟨0⟩⟩ ∧ t.pin ⟨0⟩ = ⟨.motor 0, .af 1⟩)) = true := by decide +kernel
theorem test_configure_later_keeps_time_base : answers (exec (.configure 1 .fast) configured) (fun t =>
    decide (t.reg = [⟨0⟩] ∧ (t.group 0).psc = 27#16 ∧ (t.group 0).variant = some .standard ∧
      ((t.group 0).chan .ch1).src = true ∧ ((t.group 0).chan .ch2).src = true ∧
      ((t.group 0).chan .ch2).mode = .pwm)) = true := by decide +kernel
theorem test_encode_1500 : answers (exec (.encode 0 1500#16) configured) (fun t =>
    decide (t.mem.map (fun e => e.2.toNat) = [29, 14, 14, 14, 14, 14, 29, 29, 14, 14, 14, 14, 29, 14, 29, 29] ∧
      (t.motor 0).chan.last = some 1500#16 ∧ (t.motor 0).dma.ndtr = 16#16 ∧ (t.motor 0).dma.en = true)) = true := by
  decide +kernel
/-- 95 §5.3: fault (7, 0, S0). -/
theorem test_encode_while_enabled : answers (exec (.encode 0 1600#16) armed) (fun t =>
    decide (t.fault = some ⟨.encodeWhileStreamEnabled, some 0, .stream ⟨0⟩⟩ ∧ t.cpu.hpc = 3 ∧ t.mem = armed.mem)) = true := by
  decide +kernel
/-- 95 §1.3: counter 17 restarts at 0. -/
theorem test_batch_restarts : answers
    (exec .completeUpdateCycle (sharing.setGroup 0 { sharing.group 0 with cnt := 17#16 })) (fun t =>
    decide ((t.group 0).cnt = 0#16 ∧ ((t.group 0).chan .ch1).dier = true ∧ ((t.group 0).chan .ch2).dier = true ∧
      t.cpu.hpc = 3)) = true := by decide +kernel
/-- 95 §5.2: an empty registry. -/
theorem test_batch_empty : answers (exec .completeUpdateCycle State.reset) (fun t => decide (t = State.reset.advance)) = true := by
  decide +kernel
/-- 95 §5.1: (1, 0, 1) becomes (0, 0, 0). -/
theorem test_tcHandler_completes : answers (exec (.tcHandler 0) completed) (fun t =>
    decide ((t.motor 0).dma.en = false ∧ (t.motor 0).dma.ndtr = 0#16 ∧ (t.motor 0).dma.tcif = false)) = true := by
  decide +kernel
/-- 95 §5.1: fault (4, 4, handler tag). -/
theorem test_tcHandler_bad_tag : answers (exec (.tcHandler 4) completed) (fun t =>
    decide (t.fault = some ⟨.badMotorIndex, some 4, .motorIndex .tag⟩)) = true := by decide +kernel
/-- 95 §4.1, tick 40: the transfer of b0 = 29. -/
theorem test_tick_transfers_first_entry : answers (step (withTurns atEvent [] [.timer 0])) (fun t =>
    decide ((t.group 0).cnt = 0#16 ∧ ((t.group 0).chan .ch1).ccrp = 29#16 ∧ ((t.group 0).chan .ch1).ccr = 0#16 ∧
      (t.motor 0).dma.ndtr = 15#16 ∧ (t.motor 0).dma.tcif = false)) = true := by decide +kernel
/-- 95 §4.1, tick 669: the last transfer raises the flag. -/
theorem test_tick_last_entry_raises_flag : answers (step (withTurns lastEntry [] [.timer 0])) (fun t =>
    decide ((t.motor 0).dma.ndtr = 0#16 ∧ (t.motor 0).dma.tcif = true ∧ (t.motor 0).dma.en = true ∧
      t.pending 0 = true)) = true := by decide +kernel
/-- R220 d: a faulted machine is halted. -/
theorem test_halted : (match step (withTurns (after (.tcHandler 4) State.reset) [] [.timer 0]) with
    | .fault (.halted f) => decide (f.code.number = 4)
    | _ => false) = true := by decide +kernel
/-- R227: a pending interrupt waits inside a COMPLETE_UPDATE_CYCLE. -/
theorem test_handler_waits_in_batch :
    answers (step (withTurns { completed with cpu := { completed.cpu with batch := 1 } } [] [.handler 0])) (fun t =>
      decide (t.pending 0 = true ∧ (t.motor 0).dma.en = true)) = true := by decide +kernel
/-- The word placed at reset runs as the next step. -/
theorem test_withFetchWord : answers (step (State.reset.withFetchWord 32 0x10000000)) (fun t =>
    decide (t.cpu.hpc = 1 ∧ (t.motor 0).chan.cfg = true)) = true := by decide +kernel

/-! ### Witnesses for the statements' hypotheses -/

theorem exists_of_answers {r : Result} {p : State → Bool} (h : answers r p = true) : ∃ t, r = .next t ∧ p t = true := by
  unfold answers at h
  split at h
  · exact ⟨_, rfl, h⟩
  · cases h

/-- DecodeOfEncodeIsTheCommand. -/
theorem witness_wellFormed : (Instr.configure 255 .fast).wellFormed = true ∧ (Instr.encode 0 65535#16).wellFormed = true := by
  decide
/-- EncodeOfDecodeIsTheWord, DecodeFollowsTheOpcodeTable. -/
theorem witness_decode_ok : decode 0x2001FFFF#32 = .ok (.encode 1 65535#16) := by decide +kernel
/-- DecodeFollowsTheOpcodeTable, its clause on ILLEGAL. -/
theorem witness_decode_illegal : ¬∃ i, decode 0x10000002#32 = .ok i := by
  have : decode 0x10000002#32 = .error .reservedBits := by decide +kernel
  simp [this]
/-- StepRunsTheDecodedCommand. -/
theorem witness_runsCommand :
    RunsCommand (withTurns State.reset [0x10000000#32] [.host]) (.configure 0 .standard) [] :=
  ⟨by decide, rfl, rfl, rfl, 0x10000000#32, rfl, by decide +kernel⟩
/-- IllegalWordRaisesCodeTen. -/
theorem witness_illegalWord : TakesTurn (withTurns State.reset [0x50000000#32] [.host]) .host [] ∧
    (withTurns State.reset [0x50000000#32] [.host]).cpu.saved = none ∧
    (withTurns State.reset [0x50000000#32] [.host]).prog[0]? = some 0x50000000#32 ∧
    decode 0x50000000#32 = .error .opcode :=
  ⟨⟨by decide, rfl, rfl⟩, rfl, rfl, by decide +kernel⟩
theorem nm_resetWith (nm nt : Nat) (p : Platform) : (State.resetWith nm nt p).nm = nm := List.length_replicate
/-- RaisingAFaultRecordsAdvancesAndHalts, at both ends of the range of `NM`. -/
theorem witness_motorCount : (1 ≤ (State.resetWith 1 1 Platform.common).nm ∧ (State.resetWith 1 1 Platform.common).nm ≤ 256) ∧
    (1 ≤ (State.resetWith 256 1 Platform.common).nm ∧ (State.resetWith 256 1 Platform.common).nm ≤ 256) := by
  simp only [nm_resetWith]
  decide
/-- FaultRecordNeverChanges, first clause, and every whole-machine rule without further hypotheses. -/
theorem witness_step : ∃ t, step (withTurns armed [] [.timer 0]) = .next t ∧ (withTurns armed [] []).cpu.saved = none := by
  obtain ⟨t, h, -⟩ := exists_of_answers (r := step (withTurns armed [] [.timer 0])) (p := fun _ => true) (by decide +kernel)
  exact ⟨t, h, by decide +kernel⟩
/-- FaultRecordNeverChanges, the other clauses. -/
theorem witness_faulted : ∃ f t, (after (.tcHandler 4) State.reset).fault = some f ∧
    exec (.encode 9 0#16) (after (.tcHandler 4) State.reset) = .next t := by
  obtain ⟨t, h, -⟩ := exists_of_answers (r := exec (.encode 9 0#16) (after (.tcHandler 4) State.reset)) (p := fun _ => true)
    (by decide +kernel)
  exact ⟨⟨.badMotorIndex, some 4, .motorIndex .tag⟩, t, by decide +kernel, h⟩

/-- CONFIGURE's hypotheses over the motors a small state has, as one check. -/
def readyCheck (s : State) (m : Nat) (b : Binding) (c : Channel) : Bool :=
  decide (m < s.nm ∧ (s.motor m).chan.bound = none ∧ platBinding s.plat m = some b ∧ b.channel = c.selector ∧
    (s.pin b.pin).owner = .none) &&
  (List.range s.nm).all fun n => match (s.motor n).chan.bound with
    | none => true
    | some bd => decide (bd.stream ≠ b.stream ∧ bd.grp < s.reg.length ∧ ¬(s.reg[bd.grp]? = some b.timerId ∧ bd.ch = c))

theorem ready_of_check {s : State} {m : Nat} {b : Binding} {c : Channel} (h : readyCheck s m b c = true) :
    ConfigureReady s m b c := by
  simp only [readyCheck, Bool.and_eq_true, decide_eq_true_eq, List.all_eq_true, List.mem_range] at h
  obtain ⟨⟨h1, h2, h3, h4, h5⟩, hn⟩ := h
  have each : ∀ n bd, n < s.nm → (s.motor n).chan.bound = some bd →
      bd.stream ≠ b.stream ∧ bd.grp < s.reg.length ∧ ¬(s.reg[bd.grp]? = some b.timerId ∧ bd.ch = c) := fun n bd hl hb => by
    have := hn n hl
    simp only [hb, decide_eq_true_eq] at this
    exact this
  exact ⟨h1, h2, h3, h4, h5, fun n bd hl hb => (each n bd hl hb).1, fun n bd hl hb => (each n bd hl hb).2.1,
    fun n bd hl hb => (each n bd hl hb).2.2⟩

/-- Row `m` of the common resource table. -/
def row (m : Nat) : Binding := (platBinding Platform.common m).getD ⟨⟨0⟩, 0, ⟨0⟩, 0, ⟨0⟩, ⟨0⟩⟩
/-- Reset with another resource table, of which motor 0's row is the common one. -/
def resetWithRow (b : Binding) : State := State.resetWith 4 1 { Platform.common with rt := [(0, row 0), (1, b)] }
/-- Motor 0 configured on such a platform. -/
def configuredWithRow (b : Binding) : State := after (.configure 0 .standard) (resetWithRow b)

/-- RunsWithoutMeaningAreRefused, no prescaler. -/
theorem witness_noPrescaler :
    ConfigureReady (State.resetWith 4 8 { Platform.common with sysclkHz := 84000000 }) 0 (row 0) .ch1 ∧
    (row 0).timerId ∉ (State.resetWith 4 8 { Platform.common with sysclkHz := 84000000 }).reg ∧
    (State.resetWith 4 8 { Platform.common with sysclkHz := 84000000 }).reg.length <
      (State.resetWith 4 8 { Platform.common with sysclkHz := 84000000 }).nt ∧
    prescaler { Platform.common with sysclkHz := 84000000 } (row 0).timerId .fast = none :=
  ⟨ready_of_check (by decide +kernel), by decide +kernel, by decide +kernel, by decide +kernel⟩
/-- RunsWithoutMeaningAreRefused, `NM` just outside its range. -/
theorem witness_badMotorCount : ¬(1 ≤ (State.resetWith 0 1 Platform.common).nm ∧ (State.resetWith 0 1 Platform.common).nm ≤ 256) ∧
    ¬(1 ≤ (State.resetWith 257 1 Platform.common).nm ∧ (State.resetWith 257 1 Platform.common).nm ≤ 256) := by
  simp only [nm_resetWith]
  decide
/-- RunsWithoutMeaningAreRefused, no binding. -/
theorem witness_noBinding : 2 < (resetWithRow (row 1)).nm ∧ ((resetWithRow (row 1)).motor 2).chan.bound = none ∧
    platBinding (resetWithRow (row 1)).plat 2 = none := by decide +kernel
/-- StepKeepsTheInvariant. -/
theorem witness_inv_step : ∃ t, Inv (withTurns atEvent [] [.timer 0]) ∧ step (withTurns atEvent [] [.timer 0]) = .next t := by
  obtain ⟨t, h, -⟩ := exists_of_answers (r := step (withTurns atEvent [] [.timer 0])) (p := fun _ => true) (by decide +kernel)
  exact ⟨t, inv_of_check (by decide +kernel), h⟩
/-- UnwrittenReadIsUnreachable: a step from such a state that records a fault. -/
theorem witness_inv_fault : ∃ t f, Inv (withTurns armed [0x200005DC#32] [.host]) ∧
    step (withTurns armed [0x200005DC#32] [.host]) = .next t ∧ t.fault = some f := by
  obtain ⟨t, h, hf⟩ := exists_of_answers (r := step (withTurns armed [0x200005DC#32] [.host]))
    (p := fun t => decide (t.fault = some ⟨.encodeWhileStreamEnabled, some 0, .stream ⟨0⟩⟩)) (by decide +kernel)
  exact ⟨t, _, inv_of_check (by decide +kernel), h, of_decide_eq_true hf⟩

/-- ValueOfThrottle: the last throttle that clips and the first that does not. -/
theorem witness_value : (1000#16).toNat ≤ 1000 ∧ 1000 < (1001#16).toNat := by decide
/-- PayloadClipsRisesAndWraps: each clause at the ends of its range. -/
theorem witness_payload : (1000#16).toNat ≤ 1000 ∧ (1001 ≤ (1001#16).toNat ∧ (1001#16).toNat < 1999) ∧
    (1001 ≤ (1998#16).toNat ∧ (1998#16).toNat < 1999) ∧ (2000 ≤ (2000#16).toNat ∧ (2000#16).toNat ≤ 2024) ∧
    (2000 ≤ (2024#16).toNat ∧ (2024#16).toNat ≤ 2024) ∧ 2025 ≤ (2025#16).toNat ∧ 2025 ≤ (65535#16).toNat ∧
    payload 2024#16 = 48#11 := by decide +kernel
/-- ChecksumBitByBit and TickBufferFollowsTheFrame: the first and last bit and entry. -/
theorem witness_positions : 0 < 4 ∧ 3 < 4 ∧ 0 < 16 ∧ 15 < 16 := by decide

/-- EncodeChecksThenArmsTheMotor, each clause. -/
theorem witness_encode : ¬ 4 < State.reset.nm ∧ (3 < State.reset.nm ∧ (State.reset.motor 3).chan.bound = none) ∧
    (0 < armed.nm ∧ (armed.motor 0).chan.bound = some ⟨0, .ch1, ⟨0⟩, ⟨0⟩⟩ ∧ (armed.motor 0).dma.en = true) ∧
    (0 < configured.nm ∧ (configured.motor 0).chan.bound = some ⟨0, .ch1, ⟨0⟩, ⟨0⟩⟩ ∧
      (configured.motor 0).dma.en = false) := by decide +kernel
/-- EncodeBeforeTheHandlerFaults. -/
theorem witness_completed : Inv completed ∧ (completed.motor 0).dma.tcif = true :=
  ⟨inv_of_check (by decide +kernel), by decide +kernel⟩

/-- ConfigureReportsTheFirstFailedCheck, codes 4, 5 and 3 (selectors just outside 1..4). -/
theorem witness_configure_4_5_3 : ¬ 4 < State.reset.nm ∧
    (0 < configured.nm ∧ (configured.motor 0).chan.bound = some ⟨0, .ch1, ⟨0⟩, ⟨0⟩⟩) ∧
    (∀ n ∈ [0, 5], 1 < (resetWithRow { row 1 with channel := n }).nm ∧
      ((resetWithRow { row 1 with channel := n }).motor 1).chan.bound = none ∧
      platBinding (resetWithRow { row 1 with channel := n }).plat 1 = some { row 1 with channel := n } ∧
      ¬(1 ≤ n ∧ n ≤ 4)) := by decide +kernel
/-- Code 1: motor 1's pin is motor 0's. -/
theorem witness_configure_1 : 1 < (configuredWithRow { row 1 with pin := ⟨0⟩ }).nm ∧
    ((configuredWithRow { row 1 with pin := ⟨0⟩ }).motor 1).chan.bound = none ∧
    platBinding (configuredWithRow { row 1 with pin := ⟨0⟩ }).plat 1 = some { row 1 with pin := ⟨0⟩ } ∧
    (row 1).channel = Channel.ch2.selector ∧ ((configuredWithRow { row 1 with pin := ⟨0⟩ }).pin ⟨0⟩).owner ≠ .none := by
  decide +kernel
/-- Code 9: motor 1's stream is motor 0's. -/
theorem witness_configure_9 : ((configuredWithRow { row 1 with stream := ⟨0⟩ }).motor 1).chan.bound = none ∧
    platBinding (configuredWithRow { row 1 with stream := ⟨0⟩ }).plat 1 = some { row 1 with stream := ⟨0⟩ } ∧
    ((configuredWithRow { row 1 with stream := ⟨0⟩ }).pin ⟨1⟩).owner = .none ∧
    0 < (configuredWithRow { row 1 with stream := ⟨0⟩ }).nm ∧
    ((configuredWithRow { row 1 with stream := ⟨0⟩ }).motor 0).chan.bound = some ⟨0, .ch1, ⟨0⟩, ⟨0⟩⟩ := by decide +kernel
/-- Code 8: motor 1's timer and channel are motor 0's. -/
theorem witness_configure_8 : ((configuredWithRow { row 1 with channel := 1 }).motor 1).chan.bound = none ∧
    platBinding (configuredWithRow { row 1 with channel := 1 }).plat 1 = some { row 1 with channel := 1 } ∧
    ((configuredWithRow { row 1 with channel := 1 }).pin ⟨1⟩).owner = .none ∧
    (∀ n bn, n < (configuredWithRow { row 1 with channel := 1 }).nm →
      ((configuredWithRow { row 1 with channel := 1 }).motor n).chan.bound = some bn →
      bn.stream ≠ ⟨1⟩ ∧ bn.grp < (configuredWithRow { row 1 with channel := 1 }).reg.length) ∧
    ((configuredWithRow { row 1 with channel := 1 }).motor 0).chan.bound = some ⟨0, .ch1, ⟨0⟩, ⟨0⟩⟩ ∧
    (configuredWithRow { row 1 with channel := 1 }).reg[0]? = some ⟨0⟩ := by
  refine ⟨by decide +kernel, by decide +kernel, by decide +kernel, fun n bn hn hb => ?_, by decide +kernel, by decide +kernel⟩
  have hn4 : (configuredWithRow { row 1 with channel := 1 }).nm = 4 := by decide +kernel
  have all : ∀ n < 4, ∀ bn ∈ ((configuredWithRow { row 1 with channel := 1 }).motor n).chan.bound.toList,
      bn.stream ≠ ⟨1⟩ ∧ bn.grp < (configuredWithRow { row 1 with channel := 1 }).reg.length := by decide +kernel
  exact all n (hn4 ▸ hn) bn (by simp [hb])
/-- Code 2: a new timer and a full registry of one. -/
theorem witness_configure_2 : ConfigureReady (configuredWithRow (row 2)) 1 (row 2) .ch1 ∧
    (row 2).timerId ∉ (configuredWithRow (row 2)).reg ∧
    (configuredWithRow (row 2)).nt ≤ (configuredWithRow (row 2)).reg.length :=
  ⟨ready_of_check (by decide +kernel), by decide +kernel, by decide +kernel⟩
/-- ConfigureFirstMotorOfItsTimer. -/
theorem witness_configureFirst : ConfigureReady State.reset 0 (row 0) .ch1 ∧ (row 0).timerId ∉ State.reset.reg ∧
    State.reset.reg.length < State.reset.nt ∧ prescaler State.reset.plat (row 0).timerId .standard = some 27#16 :=
  ⟨ready_of_check (by decide +kernel), by decide +kernel, by decide +kernel, by decide +kernel⟩
/-- ConfigureLaterMotorOfItsTimer. -/
theorem witness_configureLater : ConfigureReady configured 1 (row 1) .ch2 ∧ configured.reg.Nodup ∧
    configured.reg.length ≤ configured.nt ∧ configured.reg[0]? = some (row 1).timerId :=
  ⟨ready_of_check (by decide +kernel), by decide +kernel, by decide +kernel, by decide +kernel⟩
/-- PrescalerGivesTheTickRate. -/
theorem witness_clkDiv : 0 < platClkDiv Platform.common ⟨0⟩ := by decide
/-- GetOrCreateLaws: an answer of each kind. -/
theorem witness_getOrCreate : getOrCreate 1 [] ⟨0⟩ = some ⟨0, true, [⟨0⟩]⟩ ∧ getOrCreate 1 [⟨0⟩] ⟨0⟩ = some ⟨0, false, [⟨0⟩]⟩ := by
  decide

/-- Motors 0 and 2 configured, on two timers. -/
def twoTimers : State := after (.configure 2 .fast) configured
/-- BatchStepRestartsOneGroup: the first of two groups, the last of two, and no group left. -/
theorem witness_batchStep : (twoTimers.cpu.batch + 1 < twoTimers.reg.length ∧ twoTimers.reg.length ≤ twoTimers.nt) ∧
    ((after .completeUpdateCycle twoTimers).cpu.batch + 1 = (after .completeUpdateCycle twoTimers).reg.length) ∧
    State.reset.reg.length ≤ State.reset.cpu.batch := by decide +kernel
/-- BatchRestartsEveryGroup, with two groups. -/
theorem witness_batchAll : (withTurns twoTimers [0x30000000#32] [.host, .host]).cpu.batch = 0 ∧
    (withTurns twoTimers [0x30000000#32] [.host, .host]).reg.length ≤
      (withTurns twoTimers [0x30000000#32] [.host, .host]).nt ∧
    2 = max 1 (withTurns twoTimers [0x30000000#32] [.host, .host]).reg.length ∧
    RunsCommand (withTurns twoTimers [0x30000000#32] [.host, .host]) .completeUpdateCycle
      (List.replicate (2 - 1) .host ++ []) :=
  ⟨by decide +kernel, by decide +kernel, by decide +kernel, by decide +kernel, by decide +kernel, by decide +kernel, rfl,
    0x30000000#32, by decide +kernel, by decide +kernel⟩
/-- BatchRestartsEveryGroup, with no group. -/
theorem witness_batchNone : RunsCommand (withTurns State.reset [0x30000000#32] [.host]) .completeUpdateCycle
    (List.replicate (1 - 1) .host ++ []) ∧ 1 = max 1 (withTurns State.reset [0x30000000#32] [.host]).reg.length :=
  ⟨⟨by decide, rfl, rfl, rfl, 0x30000000#32, rfl, by decide +kernel⟩, rfl⟩

/-- TcHandlerCompletesOrDoesNothing, each clause. -/
theorem witness_tcHandler : ¬ 4 < completed.nm ∧ (0 < completed.nm ∧ (completed.motor 0).dma.tcif = true) ∧
    (3 < completed.nm ∧ (completed.motor 3).dma.tcif = false) := by decide +kernel
/-- The clauses with the invariant: TcHandlerCompletesOrDoesNothing on an unconfigured motor, and
BatchRestartsEveryGroup. -/
theorem witness_commands_inv : (Inv completed ∧ (completed.motor 3).chan.bound = none) ∧
    Inv (withTurns twoTimers [0x30000000#32] [.host, .host]) :=
  ⟨⟨inv_of_check (by decide +kernel), by decide +kernel⟩, inv_of_check (by decide +kernel)⟩
/-- A completed frame's state with a COMPLETE_UPDATE_CYCLE in progress. -/
def completedInBatch : State := { completed with cpu := { completed.cpu with batch := 1 } }
/-- HandlerTurnTakesAPendingInterrupt, inside a COMPLETE_UPDATE_CYCLE. -/
theorem witness_handlerInBatch : TakesTurn (withTurns completedInBatch [] [.handler 0]) (.handler 0) [] ∧
    (withTurns completedInBatch [] [.handler 0]).cpu.saved = none ∧
    (withTurns completedInBatch [] [.handler 0]).pending 0 = true ∧
    (withTurns completedInBatch [] [.handler 0]).cpu.batch ≠ 0 :=
  ⟨⟨by decide +kernel, by decide +kernel, rfl⟩, by decide +kernel, by decide +kernel, by decide +kernel⟩
/-- HandlerTurnTakesAPendingInterrupt, pending between two commands and not pending. -/
theorem witness_handlerTurn : (TakesTurn (withTurns completed [] [.handler 0]) (.handler 0) [] ∧
    (withTurns completed [] [.handler 0]).cpu.saved = none ∧ (withTurns completed [] [.handler 0]).pending 0 = true ∧
      (withTurns completed [] [.handler 0]).cpu.batch = 0) ∧
    (TakesTurn (withTurns armed [] [.handler 0]) (.handler 0) [] ∧ (withTurns armed [] [.handler 0]).cpu.saved = none ∧
      (withTurns armed [] [.handler 0]).pending 0 = false) :=
  ⟨⟨⟨by decide +kernel, by decide +kernel, rfl⟩, by decide +kernel, by decide +kernel, by decide +kernel⟩,
   ⟨⟨by decide +kernel, by decide +kernel, rfl⟩, by decide +kernel, by decide +kernel⟩⟩
/-- OnlyTheHandlerEndsAPendingInterrupt and StreamEnableChangesOnlyByEncodeAndHandler (disabled). -/
theorem witness_pendingEnds : ∃ t, Inv (withTurns completed [] [.handler 0]) ∧
    step (withTurns completed [] [.handler 0]) = .next t ∧ (withTurns completed [] [.handler 0]).pending 0 = true ∧
    t.pending 0 = false ∧ ((withTurns completed [] [.handler 0]).motor 0).dma.en = true ∧ (t.motor 0).dma.en = false := by
  obtain ⟨t, h, hp⟩ := exists_of_answers (r := step (withTurns completed [] [.handler 0]))
    (p := fun t => decide (t.pending 0 = false ∧ (t.motor 0).dma.en = false)) (by decide +kernel)
  have := of_decide_eq_true hp
  exact ⟨t, inv_of_check (by decide +kernel), h, by decide +kernel, this.1, by decide +kernel, this.2⟩
/-- HandlersCommute, the clause with a timer step. -/
theorem witness_commute_timer : Inv completed ∧ completed.pending 0 = true :=
  ⟨inv_of_check (by decide +kernel), by decide +kernel⟩
/-- HandlersCommute. -/
theorem witness_commute : completed.cpu.saved = none ∧ (0 : Nat) ≠ 1 ∧ ∃ t, exec .completeUpdateCycle completed = .next t := by
  obtain ⟨t, h, -⟩ := exists_of_answers (r := exec .completeUpdateCycle completed) (p := fun _ => true) (by decide +kernel)
  exact ⟨by decide +kernel, by decide, t, h⟩

/-- Every turn has a code. -/
def turnOfCode (n : Nat) : Turn :=
  if n % 3 = 0 then .host else if n % 3 = 1 then .handler (n / 3) else .timer (n / 3)
/-- A turn sequence in which every code comes again and again. -/
def fairTurns (k : Nat) : Turn := turnOfCode (Nat.unpair k).1
theorem turnOfCode_surjective (turn : Turn) : ∃ n, turnOfCode n = turn := by
  cases turn with
  | host => exact ⟨0, rfl⟩
  | handler m =>
    refine ⟨3 * m + 1, ?_⟩
    have h1 : (3 * m + 1) % 3 = 1 := by omega
    have h2 : (3 * m + 1) / 3 = m := by omega
    simp [turnOfCode, h1, h2]
  | timer i =>
    refine ⟨3 * i + 2, ?_⟩
    have h1 : (3 * i + 2) % 3 = 2 := by omega
    have h2 : (3 * i + 2) / 3 = i := by omega
    simp [turnOfCode, h1, h2]
/-- PendingInterruptIsEventuallyTaken. -/
theorem witness_fair : FairTurns fairTurns ∧ Inv completed ∧ completed.pending 0 = true := by
  refine ⟨fun turn n => ?_, inv_of_check (by decide +kernel), by decide +kernel⟩
  obtain ⟨c, hc⟩ := turnOfCode_surjective turn
  exact ⟨Nat.pair c n, Nat.right_le_pair c n, by simp [fairTurns, hc]⟩

/-- TimerTickCountsUpdatesAndDrives, with a PWM channel and one that is off, a bound motor and an unbound one. -/
theorem witness_timerTick : Inv (withTurns atEvent [] [.timer 0]) ∧
    TakesTurn (withTurns atEvent [] [.timer 0]) (.timer 0) [] ∧ 0 < (withTurns atEvent [] [.timer 0]).reg.length ∧
    (((withTurns atEvent [] [.timer 0]).group 0).chan .ch1).mode = .pwm ∧
    (((withTurns atEvent [] [.timer 0]).group 0).chan .ch4).mode = .off ∧
    ((withTurns atEvent [] [.timer 0]).motor 0).chan.bound = some ⟨0, .ch1, ⟨0⟩, ⟨0⟩⟩ ∧
    ((withTurns atEvent [] [.timer 0]).motor 3).chan.bound = none :=
  ⟨inv_of_check (by decide +kernel), ⟨by decide +kernel, by decide +kernel, rfl⟩, by decide +kernel, by decide +kernel,
    by decide +kernel, by decide +kernel, by decide +kernel⟩
/-- TimerTickCountsUpdatesAndDrives, the first group without a timer, and a motor bound to another group than the ticking one. -/
theorem witness_otherGroup : Inv (withTurns twoTimers [] [.timer 2]) ∧
    TakesTurn (withTurns twoTimers [] [.timer 2]) (.timer 2) [] ∧ (withTurns twoTimers [] [.timer 2]).reg.length ≤ 2 ∧
    Inv (withTurns twoTimers [] [.timer 0]) ∧ TakesTurn (withTurns twoTimers [] [.timer 0]) (.timer 0) [] ∧
    0 < (withTurns twoTimers [] [.timer 0]).reg.length ∧
    ∃ bd, ((withTurns twoTimers [] [.timer 0]).motor 2).chan.bound = some bd ∧ bd.grp ≠ 0 :=
  ⟨inv_of_check (by decide +kernel), ⟨by decide +kernel, by decide +kernel, rfl⟩, by decide +kernel,
    inv_of_check (by decide +kernel), ⟨by decide +kernel, by decide +kernel, rfl⟩, by decide +kernel,
    ⟨1, .ch1, ⟨2⟩, ⟨2⟩⟩, by decide +kernel, by decide⟩
/-- CompareEventTransfersTheNextEntry: the event on an enabled stream, with 16 entries and with one left. -/
theorem witness_compareEvent : ∀ s ∈ [withTurns atEvent [] [.timer 0], withTurns lastEntry [] [.timer 0]],
    s.invCheck = true ∧ (s.nm = 4 ∧ s.fault = none ∧ s.sched = [.timer 0]) ∧
    (s.motor 0).chan.bound = some ⟨0, .ch1, ⟨0⟩, ⟨0⟩⟩ ∧ (s.motor 0).dma.en = true ∧ (s.motor 0).dma.ndtr ≠ 0#16 ∧
    answers (step s) (fun t => decide ((t.group 0).cnt = ((t.group 0).chan .ch1).ccr)) = true := by decide +kernel
/-- CompareEventTransfersTheNextEntry: no event, and a stream that cannot transfer. -/
theorem witness_noTransfer : (withTurns armed [] [.timer 0]).invCheck = true ∧
    answers (step (withTurns armed [] [.timer 0])) (fun t => decide ((t.group 0).cnt ≠ ((t.group 0).chan .ch1).ccr)) = true ∧
    (withTurns completed [] [.timer 0]).invCheck = true ∧ (completed.motor 0).dma.ndtr = 0#16 ∧
    answers (step (withTurns completed [] [.timer 0])) (fun _ => true) = true := by decide +kernel
/-- ArmedStreamCompletesWithinSeventeenPeriods. -/
theorem witness_armed : Inv (withTurns armed [] (List.replicate 680 (.timer 0) ++ [])) ∧
    (1 ≤ armed.nm ∧ armed.nm ≤ 256) ∧ armed.fault = none ∧ (armed.motor 0).chan.bound = some ⟨0, .ch1, ⟨0⟩, ⟨0⟩⟩ ∧
    (armed.motor 0).dma.en = true ∧ (armed.motor 0).dma.ndtr = 16#16 ∧
    (withTurns armed [] (List.replicate 680 (.timer 0) ++ [])).sched = List.replicate 680 (.timer 0) ++ [] :=
  ⟨inv_of_check (by decide +kernel), by decide +kernel, by decide +kernel, by decide +kernel, by decide +kernel,
    by decide +kernel, rfl⟩

/-- ArmedFrameReachesTheLine, armed after the period's compare event and before it. -/
theorem witness_armedFrame : (Inv (withTurns armed [] (List.replicate 720 (.timer 0) ++ [])) ∧
    ¬(armed.group 0).cnt < ((armed.group 0).chan .ch1).ccr) ∧
    Inv (withTurns rearmed [] (List.replicate 720 (.timer 0) ++ [])) ∧
    (rearmed.group 0).cnt < ((rearmed.group 0).chan .ch1).ccr ∧
    (rearmed.motor 0).chan.bound = some ⟨0, .ch1, ⟨0⟩, ⟨0⟩⟩ ∧ (rearmed.motor 0).dma.en = true ∧
    (rearmed.motor 0).dma.ndtr = 16#16 ∧ rearmed.fault = none ∧ (1 ≤ rearmed.nm ∧ rearmed.nm ≤ 256) :=
  ⟨⟨inv_of_check (by decide +kernel), by decide +kernel⟩, inv_of_check (by decide +kernel), by decide +kernel,
    by decide +kernel, by decide +kernel, by decide +kernel, by decide +kernel, by decide +kernel⟩

/-- OnlyHostCommandsAdvanceTheIndex, RegistryOnlyGrowsByConfigure: a host command that advances and registers. -/
theorem witness_registers : ∃ t, step (withTurns State.reset [0x10000000#32] [.host]) = .next t ∧
    t.cpu.hpc = State.reset.cpu.hpc + 1 ∧ t.reg ≠ State.reset.reg ∧ State.reset.cpu.saved = none ∧
    State.reset.reg.length ≤ State.reset.nt := by
  obtain ⟨t, h, hp⟩ := exists_of_answers (r := step (withTurns State.reset [0x10000000#32] [.host]))
    (p := fun t => decide (t.cpu.hpc = State.reset.cpu.hpc + 1 ∧ t.reg ≠ State.reset.reg)) (by decide +kernel)
  have := of_decide_eq_true hp
  exact ⟨t, h, this.1, this.2, rfl, by decide⟩
/-- BindingIsForLife, OwnedPinNeverChanges, TimeBaseIsWrittenOnce, RequestEnableIsNeverCleared: CONFIGURE of a second motor
on the timer of a first. -/
theorem witness_bound : ∃ t, step (withTurns configured [0x10010001#32] [.host]) = .next t ∧
    (configured.motor 0).chan.bound = some ⟨0, .ch1, ⟨0⟩, ⟨0⟩⟩ ∧ (configured.pin ⟨0⟩).owner ≠ .none ∧
    0 < configured.reg.length ∧ ((configured.group 0).chan .ch1).dier = true ∧
    ((configured.group 0).chan .ch1).src = true := by
  obtain ⟨t, h, -⟩ := exists_of_answers (r := step (withTurns configured [0x10010001#32] [.host])) (p := fun _ => true)
    (by decide +kernel)
  exact ⟨t, h, by decide +kernel, by decide +kernel, by decide +kernel, by decide +kernel, by decide +kernel⟩
/-- StreamEnableChangesOnlyByEncodeAndHandler (enabled), BufferChangesOnlyWhileItsStreamIsDisabled. -/
theorem witness_encodes : ∃ t, Inv (withTurns configured [0x200005DC#32] [.host]) ∧
    step (withTurns configured [0x200005DC#32] [.host]) = .next t ∧
    ((withTurns configured [0x200005DC#32] [.host]).motor 0).dma.en = false ∧ (t.motor 0).dma.en = true ∧
    t.readTick 0 15 ≠ (withTurns configured [0x200005DC#32] [.host]).readTick 0 15 := by
  obtain ⟨t, h, hp⟩ := exists_of_answers (r := step (withTurns configured [0x200005DC#32] [.host]))
    (p := fun t => decide ((t.motor 0).dma.en = true ∧ t.readTick 0 15 = some 29#8)) (by decide +kernel)
  have := of_decide_eq_true hp
  have hn : (withTurns configured [0x200005DC#32] [.host]).readTick 0 15 = none := by decide +kernel
  exact ⟨t, inv_of_check (by decide +kernel), h, by decide +kernel, this.1, by rw [this.2, hn]; simp⟩
/-- QuiescentObservationIsFixed: a quiescent state whose timer runs. -/
theorem witness_quiescent : ∃ t, Quiescent (withTurns configured [] [.timer 0]) ∧
    step (withTurns configured [] [.timer 0]) = .next t := by
  obtain ⟨t, h, -⟩ := exists_of_answers (r := step (withTurns configured [] [.timer 0])) (p := fun _ => true)
    (by decide +kernel)
  refine ⟨t, ⟨by decide +kernel, by decide +kernel, ?_⟩, h⟩
  decide +kernel

end Sys2Proof.Tests
end

section
/-! SUPPORT. The frame `SameSetting`: no update of the state, command or turn changes the parameters, the program, the
schedule or the numbers of motors and groups (00_scope.md R8). -/

namespace Sys2Proof.Machine

theorem SameSetting.refl (s : State) : SameSetting s s := ⟨rfl, rfl, rfl, rfl, rfl, rfl⟩

theorem SameSetting.trans {s t u : State} (h : SameSetting s t) (k : SameSetting t u) : SameSetting s u where
  plat := k.plat.trans h.plat
  prog := k.prog.trans h.prog
  sched := k.sched.trans h.sched
  choices := k.choices.trans h.choices
  nm := k.nm.trans h.nm
  nt := k.nt.trans h.nt

/-! ### The updates of the state -/

section
variable (s : State)

theorem State.sameSetting_setMotor (m : Nat) (u : Motor) : SameSetting s (s.setMotor m u) :=
  ⟨rfl, rfl, rfl, rfl, s.nm_setMotor m u, rfl⟩

theorem State.sameSetting_setGroup (i : Nat) (g : Group) : SameSetting s (s.setGroup i g) :=
  ⟨rfl, rfl, rfl, rfl, rfl, s.nt_setGroup i g⟩

theorem State.sameSetting_setCpu (c : Cpu) : SameSetting s { s with cpu := c } := ⟨rfl, rfl, rfl, rfl, rfl, rfl⟩

theorem State.sameSetting_advance : SameSetting s s.advance := s.sameSetting_setCpu _

theorem State.sameSetting_recordFault (f : FaultRecord) : SameSetting s (s.recordFault f) :=
  ⟨rfl, rfl, rfl, rfl, rfl, rfl⟩

theorem State.sameSetting_raiseFault (f : FaultRecord) : SameSetting s (s.raiseFault f) :=
  (s.sameSetting_recordFault f).trans (State.sameSetting_advance _)

theorem State.sameSetting_writeTicks (m : Nat) (fr : Half) (n : Nat) : SameSetting s (s.writeTicks m fr n) := by
  rw [State.writeTicks_eq]
  exact ⟨rfl, rfl, rfl, rfl, rfl, rfl⟩

/-! ### The effects of the commands, the interrupt and the tick -/

theorem State.sameSetting_encodeMotor (m : Nat) (th : Half) : SameSetting s (s.encodeMotor m th) :=
  ((s.sameSetting_writeTicks m (frame th) Config.bufLen).trans (State.sameSetting_setMotor _ m _)).trans
    (State.sameSetting_advance _)

theorem State.sameSetting_bindMotor (m : Nat) (b : Binding) (c : Channel) (i : Nat) (g : Group) (ids : List TimerId) :
    SameSetting s (s.bindMotor m b c i g ids) :=
  ⟨rfl, rfl, rfl, rfl, s.bindMotor_nm m b c i g ids, s.bindMotor_nt m b c i g ids⟩

theorem State.sameSetting_restartCurrent : SameSetting s s.restartCurrent := by
  unfold State.restartCurrent
  split_ifs
  · exact s.sameSetting_setGroup _ _
  · exact .refl s

theorem State.sameSetting_completeTransfer (m : Nat) : SameSetting s (s.completeTransfer m) := s.sameSetting_setMotor m _

theorem State.sameSetting_takeInterrupt (m : Nat) : SameSetting s (s.takeInterrupt m) :=
  ((s.sameSetting_setCpu _).trans (s.enterInterrupt.sameSetting_completeTransfer m)).trans (State.sameSetting_setCpu _ _)

theorem State.sameSetting_transfer (i : Nat) (c : Channel) (m : Nat) (v : Byte) : SameSetting s (s.transfer i c m v) :=
  ⟨rfl, rfl, rfl, rfl, s.transfer_nm i c m v, s.transfer_nt i c m v⟩

theorem State.sameSetting_dmaRequest {s t : State} {i : Nat} {c : Channel} (h : s.dmaRequest i c = .ok t) :
    SameSetting s t := by
  obtain rfl | ⟨m, v, -, -, -, -, rfl⟩ := State.dmaRequest_ok h
  · exact .refl t
  · exact s.sameSetting_transfer i c m v

theorem State.sameSetting_serveChannels {s t : State} {i : Nat} {cs : List Channel} (h : s.serveChannels i cs = .ok t) :
    SameSetting s t :=
  State.serveChannels_induction (P := SameSetting s) (fun _ _ _ ha hb => ha.trans (State.sameSetting_dmaRequest hb))
    (.refl s) h

theorem State.sameSetting_timerStep (i : Nat) : SameSetting s (s.timerStep i) := by
  obtain hok | ⟨f, -, hf⟩ := s.timerStep_cases i
  · exact (s.sameSetting_setGroup i _).trans (State.sameSetting_serveChannels hok)
  · rw [hf]
    exact s.sameSetting_recordFault f

end

/-! ### Commands and turns -/

theorem sameSetting_execConfigure {m : Nat} {v : Variant} {s t : State} (h : execConfigure m v s = .next t) :
    SameSetting s t := by
  obtain ⟨f, rfl⟩ | ⟨b, c, r, -, -, hr⟩ := execConfigure_next h
  · exact s.sameSetting_raiseFault f
  · obtain ⟨-, rfl⟩ | ⟨psc, -, -, rfl⟩ := State.configureFrom_next hr
    · exact s.sameSetting_bindMotor m b c _ _ _
    · exact s.sameSetting_bindMotor m b c _ _ _

theorem sameSetting_execEncode {m : Nat} {th : Half} {s t : State} (h : execEncode m th s = .next t) :
    SameSetting s t := by
  obtain ⟨-, rfl⟩ | ⟨-, -, rfl⟩ | ⟨bd, -, -, -, rfl⟩ | ⟨bd, -, -, -, rfl⟩ := execEncode_next h
  · exact s.sameSetting_raiseFault _
  · exact s.sameSetting_raiseFault _
  · exact s.sameSetting_raiseFault _
  · exact s.sameSetting_encodeMotor m th

theorem sameSetting_execCompleteUpdateCycle {s t : State} (h : execCompleteUpdateCycle s = .next t) :
    SameSetting s t := by
  obtain ⟨-, rfl⟩ | ⟨-, rfl⟩ := execCompleteUpdateCycle_next h
  · exact s.sameSetting_restartCurrent.trans (State.sameSetting_setCpu _ _)
  · exact s.sameSetting_restartCurrent.trans (State.sameSetting_setCpu _ _)

theorem sameSetting_execTcHandler {tag : Nat} {s t : State} (h : execTcHandler tag s = .next t) : SameSetting s t := by
  obtain ⟨-, rfl⟩ | ⟨-, rfl⟩ := execTcHandler_next h
  · exact s.sameSetting_raiseFault _
  · exact (s.sameSetting_completeTransfer tag).trans (State.sameSetting_advance _)

theorem sameSetting_exec {i : Instr} {s t : State} (h : exec i s = .next t) : SameSetting s t := by
  cases i with
  | configure m v => exact sameSetting_execConfigure h
  | encode m th => exact sameSetting_execEncode h
  | completeUpdateCycle => exact sameSetting_execCompleteUpdateCycle h
  | tcHandler tag => exact sameSetting_execTcHandler h

theorem State.sameSetting_runWord {s t : State} {w : Word} (h : s.runWord w = .next t) : SameSetting s t := by
  obtain ⟨i, -, hi⟩ | ⟨e, -, rfl⟩ := State.runWord_next h
  · exact sameSetting_exec hi
  · exact s.sameSetting_raiseFault _

/-- Only taking the turn moves the schedule; what the agent then does leaves it. -/
theorem State.sameSetting_runTurn {s t : State} {turn : Turn} (h : s.runTurn turn = .next t) : SameSetting s t := by
  obtain rfl | ⟨w, -, -, -, hw⟩ | ⟨m, -, -, -, rfl⟩ | ⟨i, -, -, rfl⟩ := State.runTurn_next h
  · exact .refl t
  · exact State.sameSetting_runWord hw
  · exact s.sameSetting_takeInterrupt m
  · exact s.sameSetting_timerStep i

@[simp] theorem State.takeTurn_nm (s : State) : s.takeTurn.2.nm = s.nm := congrArg List.length s.takeTurn_motors
@[simp] theorem State.takeTurn_nt (s : State) : s.takeTurn.2.nt = s.nt := congrArg List.length s.takeTurn_groups

/-- A step is one turn's `SameSetting` change from the state with the turn taken. -/
theorem step_sameSetting_takeTurn {s t : State} (h : step s = .next t) : SameSetting s.takeTurn.2 t := by
  obtain ⟨-, -, hturn⟩ := step_next h
  exact State.sameSetting_runTurn hturn

/-- Settles O38: the turn taken moves the schedule alone, and every turn keeps `SameSetting`. -/
theorem parametersAndProgramNeverChange : Obligations.ParametersAndProgramNeverChange := by
  intro s t h
  have hs := step_sameSetting_takeTurn h
  exact ⟨hs.plat.trans s.takeTurn_plat, hs.prog.trans s.takeTurn_prog, hs.nm.trans s.takeTurn_nm,
    hs.nt.trans s.takeTurn_nt⟩

end Sys2Proof.Machine
end

section
/-! SUPPORT. What CONFIGURE's passed checks say of the state (42_configurator.md R150, codes 1, 9 and 8). -/

namespace Sys2Proof.Machine

/-- A bound motor is an entry of the list of motors. -/
theorem State.motor_mem_of_bound {s : State} {m : Nat} {bd : Bound} (h : (s.motor m).chan.bound = some bd) :
    s.motor m ∈ s.motors := by
  have hm : m < s.motors.length := State.bound_in_range h
  simp [State.motor, hm]

theorem State.streamTaken_of_bound {s : State} {m : Nat} {bd : Bound} (h : (s.motor m).chan.bound = some bd) :
    s.streamTaken bd.stream = true :=
  List.any_eq_true.2 ⟨s.motor m, State.motor_mem_of_bound h, by simp [h]⟩

theorem State.channelTaken_of_bound {s : State} {m : Nat} {bd : Bound} {t : TimerId}
    (h : (s.motor m).chan.bound = some bd) (ht : s.reg[bd.grp]? = some t) : s.channelTaken t bd.ch = true :=
  List.any_eq_true.2 ⟨s.motor m, State.motor_mem_of_bound h, by simp [h, ht]⟩

/-- The three checks that `bindingConflict` makes have passed. -/
theorem State.bindingConflict_none {s : State} {m : Nat} {b : Binding} {c : Channel} (h : s.bindingConflict m b c = none) :
    (s.pin b.pin).owner = .none ∧ s.streamTaken b.stream = false ∧ s.channelTaken b.timerId c = false := by
  unfold State.bindingConflict at h
  split_ifs at h with hpin hstream hchan
  · split at h <;> cases h
  · exact ⟨not_not.1 hpin, by simpa using hstream, by simpa using hchan⟩

namespace ConfigureAdmitted

variable {s : State} {m : Nat} {b : Binding} {c : Channel} (adm : ConfigureAdmitted s m b c)
include adm

theorem pin_free : (s.pin b.pin).owner = .none := (State.bindingConflict_none adm.no_conflict).1

theorem stream_free {n : Nat} {bd : Bound} (h : (s.motor n).chan.bound = some bd) : bd.stream ≠ b.stream := by
  intro he
  have htaken := State.streamTaken_of_bound h
  rw [he, (State.bindingConflict_none adm.no_conflict).2.1] at htaken
  cases htaken

theorem channel_free {n : Nat} {bd : Bound} (h : (s.motor n).chan.bound = some bd)
    (ht : s.reg[bd.grp]? = some b.timerId) : bd.ch ≠ c := by
  intro he
  have htaken := State.channelTaken_of_bound h ht
  rw [he, (State.bindingConflict_none adm.no_conflict).2.2] at htaken
  cases htaken

end ConfigureAdmitted

end Sys2Proof.Machine
end

section
/-! SUPPORT. Everything one step can do, as one relation: each command's effects, and each turn's. Later proofs split along
its constructors. -/

namespace Sys2Proof.Machine

/-- What a command can answer (44_batch_update.md R180; 42_configurator.md R150; 40_encoder.md R116; 43_completion_handler.md
R170). -/
inductive CommandEffect (s : State) : Instr → State → Prop where
  /-- A fault; COMPLETE_UPDATE_CYCLE raises none. -/
  | raise {i : Instr} (f : FaultRecord) (hi : i ≠ .completeUpdateCycle) : CommandEffect s i (s.raiseFault f)
  /-- CONFIGURE of a motor whose timer is registered as group `i`. -/
  | bindLater {m : Nat} {v : Variant} {b : Binding} {c : Channel} {i : Nat} (admitted : ConfigureAdmitted s m b c)
      (known : s.reg[i]? = some b.timerId) :
      CommandEffect s (.configure m v) (s.bindMotor m b c i (s.group i) s.reg)
  /-- CONFIGURE of a motor whose timer is new: it is registered and started. -/
  | bindFirst {m : Nat} {v : Variant} {b : Binding} {c : Channel} {psc : Half} (admitted : ConfigureAdmitted s m b c)
      (new : b.timerId ∉ s.reg) (room : s.reg.length < s.nt) (scaled : prescaler s.plat b.timerId v = some psc) :
      CommandEffect s (.configure m v) (s.bindMotor m b c s.reg.length
        (((s.group s.reg.length).timeBase b.timerId v psc).start) (s.reg ++ [b.timerId]))
  | arm {m : Nat} {th : Half} {bd : Bound} (bound : (s.motor m).chan.bound = some bd) (idle : (s.motor m).dma.en = false) :
      CommandEffect s (.encode m th) (s.encodeMotor m th)
  | batchNext (more : s.cpu.batch + 1 < s.reg.length) :
      CommandEffect s .completeUpdateCycle { s.restartCurrent with cpu := { s.cpu with batch := s.cpu.batch + 1 } }
  | batchLast (last : ¬ s.cpu.batch + 1 < s.reg.length) :
      CommandEffect s .completeUpdateCycle
        { s.restartCurrent with cpu := { s.cpu with batch := 0, hpc := s.cpu.hpc + 1 } }
  | complete {m : Nat} (in_range : m < s.nm) : CommandEffect s (.tcHandler m) (s.completeTransfer m).advance

theorem execConfigure_effect {m : Nat} {v : Variant} {s t : State} (h : execConfigure m v s = .next t) :
    CommandEffect s (.configure m v) t := by
  obtain ⟨f, rfl⟩ | ⟨b, c, r, hadm, hget, hfrom⟩ := execConfigure_next h
  · exact .raise f nofun
  · obtain ⟨i, hknown, -, rfl⟩ | ⟨hnew, hroom, rfl⟩ := getOrCreate_cases hget
    · obtain ⟨-, rfl⟩ | ⟨psc, hcreated, -, -⟩ := State.configureFrom_next hfrom
      · exact .bindLater hadm hknown
      · cases hcreated
    · obtain ⟨hcreated, -⟩ | ⟨psc, -, hscaled, rfl⟩ := State.configureFrom_next hfrom
      · cases hcreated
      · exact .bindFirst hadm hnew hroom hscaled

theorem exec_effect {i : Instr} {s t : State} (h : exec i s = .next t) : CommandEffect s i t := by
  cases i with
  | configure m v => exact execConfigure_effect h
  | encode m th =>
    obtain ⟨-, rfl⟩ | ⟨-, -, rfl⟩ | ⟨bd, -, -, -, rfl⟩ | ⟨bd, -, hb, he, rfl⟩ := execEncode_next h
    · exact .raise _ nofun
    · exact .raise _ nofun
    · exact .raise _ nofun
    · exact .arm hb he
  | completeUpdateCycle =>
    obtain ⟨hmore, rfl⟩ | ⟨hlast, rfl⟩ := execCompleteUpdateCycle_next h
    · exact .batchNext hmore
    · exact .batchLast hlast
  | tcHandler m =>
    obtain ⟨-, rfl⟩ | ⟨hm, rfl⟩ := execTcHandler_next h
    · exact .raise _ nofun
    · exact .complete hm

/-- The word at `CPU.hpc` is command `i` (10_state.md R22). -/
def State.AtCommand (s : State) (i : Instr) : Prop := ∃ w, s.prog[s.cpu.hpc]? = some w ∧ decode w = .ok i

theorem State.AtCommand.lt_length {s : State} {i : Instr} (h : s.AtCommand i) : s.cpu.hpc < s.prog.length := by
  obtain ⟨w, hw, -⟩ := h
  exact (List.getElem?_eq_some_iff.1 hw).1

/-- What a turn can do (00_scope.md R11). -/
inductive TurnEffect (s : State) : Turn → State → Prop where
  /-- The agent has no enabled step. -/
  | idle {turn : Turn} : TurnEffect s turn s
  /-- The CPU meets a word that decodes to ILLEGAL (30_encoding.md R90). -/
  | illegal {w : Word} {e : Illegal} (word : s.prog[s.cpu.hpc]? = some w) (bad : decode w = .error e)
      (main : s.cpu.saved = none) :
      TurnEffect s .host (s.raiseFault ⟨.illegalCommand, none, .word w⟩)
  | command {i : Instr} {t : State} (at_command : s.AtCommand i) (effect : CommandEffect s i t)
      (main : s.cpu.saved = none) : TurnEffect s .host t
  | interrupt {m : Nat} (main : s.cpu.saved = none) (between : s.cpu.batch = 0) (pending : s.pending m = true) :
      TurnEffect s (.handler m) (s.takeInterrupt m)
  | tick {i : Nat} (runs : (s.group i).cen = true) : TurnEffect s (.timer i) (s.timerStep i)

theorem State.runTurn_effect {s t : State} {turn : Turn} (h : s.runTurn turn = .next t) : TurnEffect s turn t := by
  obtain rfl | ⟨w, rfl, hmain, hw, hrun⟩ | ⟨m, rfl, hadmits, hpending, rfl⟩ | ⟨i, rfl, hcen, rfl⟩ := State.runTurn_next h
  · exact .idle
  · obtain ⟨i, hi, hexec⟩ | ⟨e, he, rfl⟩ := State.runWord_next hrun
    · exact .command ⟨w, hw, hi⟩ (exec_effect hexec) hmain
    · exact .illegal hw he hmain
  · obtain ⟨hmain, hbetween⟩ := s.admitsHandler_iff.1 hadmits
    exact .interrupt hmain hbetween hpending
  · exact .tick hcen

/-- A step is one turn's effect on the state with the turn taken. -/
theorem step_effect {s t : State} (h : step s = .next t) : TurnEffect s.takeTurn.2 s.takeTurn.1 t := by
  obtain ⟨-, -, hturn⟩ := step_next h
  exact State.runTurn_effect hturn

theorem State.takeTurn_atCommand {s : State} {i : Instr} : s.takeTurn.2.AtCommand i ↔ s.AtCommand i := by
  simp [State.AtCommand]

/-- Settles O5: with the turn, the fault and `NM` known, every branch of the step is taken. -/
theorem stepRunsTheDecodedCommand : Obligations.StepRunsTheDecodedCommand := by
  intro s i rest ⟨hnm, hfault, hmain, hturn, w, hw, hdecode⟩
  simp [step, State.motorCountLegal, hnm, hfault, State.takeTurn_cons hturn, State.runTurn, State.hostTurn, State.inMain,
    hmain, State.hostWord, hw, State.runWord, hdecode]

end Sys2Proof.Machine
end

section
/-! SUPPORT. What no step undoes: bindings, owned pins, registered time bases, the registry's entries and a recorded fault
(10_state.md R23, R26, R28, R33, R34). -/

namespace Sys2Proof.Machine

theorem SameTimeBase.refl (g : Group) : SameTimeBase g g := ⟨rfl, rfl, rfl, rfl, rfl, rfl, rfl, rfl, rfl⟩

theorem SameTimeBase.trans {g h k : Group} (hgh : SameTimeBase g h) (hhk : SameTimeBase h k) : SameTimeBase g k := by
  simp only [SameTimeBase] at *
  simp [hgh, hhk]

theorem Group.sameTimeBase_setChan (g : Group) (c : Channel) (x : CompareUnit) : SameTimeBase g (g.setChan c x) := .refl g

theorem Group.sameTimeBase_restart (g : Group) : SameTimeBase g g.restart := .refl g

theorem Group.sameTimeBase_tick (g : Group) : SameTimeBase g g.tick := by simp [SameTimeBase]

/-- Everything `s` has settled for good stands in `t`. -/
structure Persists (s t : State) : Prop where
  bound : ∀ m bd, (s.motor m).chan.bound = some bd → (t.motor m).chan.bound = some bd
  pin : ∀ p, (s.pin p).owner ≠ .none → t.pin p = s.pin p
  timeBase : ∀ i, i < s.reg.length → SameTimeBase (s.group i) (t.group i)
  reg : s.reg <+: t.reg
  fault : ∀ f, s.fault = some f → t.fault = some f

theorem Persists.refl (s : State) : Persists s s :=
  ⟨fun _ _ h => h, fun _ _ => rfl, fun _ _ => .refl _, List.prefix_rfl, fun _ h => h⟩

theorem Persists.trans {s t u : State} (h : Persists s t) (k : Persists t u) : Persists s u where
  bound m bd hb := k.bound m bd (h.bound m bd hb)
  pin p hp := by
    have hst := h.pin p hp
    rw [k.pin p (hst ▸ hp), hst]
  timeBase i hi := (h.timeBase i hi).trans (k.timeBase i (hi.trans_le h.reg.length_le))
  reg := h.reg.trans k.reg
  fault f hf := k.fault f (h.fault f hf)

/-! ### The updates of the state -/

section
variable (s : State)

theorem State.persists_setMotor {m : Nat} {u : Motor} (hu : u.chan.bound = (s.motor m).chan.bound) :
    Persists s (s.setMotor m u) :=
  { Persists.refl s with
    bound := fun n bd hb => by
      rw [State.motor_setMotor]
      split_ifs with hn
      · rw [hu, ← hn.1, hb]
      · exact hb }

theorem State.persists_setGroup {i : Nat} {g : Group} (hg : SameTimeBase (s.group i) g) : Persists s (s.setGroup i g) :=
  { Persists.refl s with
    timeBase := fun j _ => by
      rw [State.group_setGroup]
      split_ifs with hj
      · exact hj.1 ▸ hg
      · exact .refl _ }

theorem State.persists_setCpu (c : Cpu) : Persists s { s with cpu := c } := { Persists.refl s with }

theorem State.persists_advance : Persists s s.advance := s.persists_setCpu _

theorem State.persists_recordFault (f : FaultRecord) : Persists s (s.recordFault f) :=
  { Persists.refl s with fault := fun _ hg => State.recordFault_sticky s hg }

theorem State.persists_raiseFault (f : FaultRecord) : Persists s (s.raiseFault f) :=
  (s.persists_recordFault f).trans (State.persists_advance _)

theorem State.persists_setMem (mem : Memory) : Persists s { s with mem := mem } := { Persists.refl s with }

/-! ### The effects of the commands, the interrupt and the tick -/

theorem State.persists_encodeMotor (m : Nat) (th : Half) : Persists s (s.encodeMotor m th) := by
  have hticks : Persists s (s.writeTicks m (frame th) Config.bufLen) := by
    rw [State.writeTicks_eq]
    exact s.persists_setMem _
  exact (hticks.trans (State.persists_setMotor _ (by simp))).trans (State.persists_advance _)

theorem State.persists_restartCurrent : Persists s s.restartCurrent := by
  unfold State.restartCurrent
  split_ifs
  · exact s.persists_setGroup (Group.sameTimeBase_restart _)
  · exact .refl s

theorem State.persists_completeTransfer (m : Nat) : Persists s (s.completeTransfer m) := s.persists_setMotor rfl

theorem State.persists_takeInterrupt (m : Nat) : Persists s (s.takeInterrupt m) :=
  ((s.persists_setCpu _).trans (s.enterInterrupt.persists_completeTransfer m)).trans (State.persists_setCpu _ _)

theorem State.persists_transfer (i : Nat) (c : Channel) (m : Nat) (v : Byte) : Persists s (s.transfer i c m v) :=
  (s.persists_setGroup (Group.sameTimeBase_setChan _ c _)).trans (State.persists_setMotor _ rfl)

theorem State.persists_dmaRequest {s t : State} {i : Nat} {c : Channel} (h : s.dmaRequest i c = .ok t) :
    Persists s t := by
  obtain rfl | ⟨m, v, -, -, -, -, rfl⟩ := State.dmaRequest_ok h
  · exact .refl t
  · exact s.persists_transfer i c m v

theorem State.persists_timerStep (i : Nat) : Persists s (s.timerStep i) := by
  have htick : Persists s (s.setGroup i (s.group i).tick) := s.persists_setGroup (Group.sameTimeBase_tick _)
  obtain hok | ⟨f, -, hf⟩ := s.timerStep_cases i
  · exact State.serveChannels_induction (P := Persists s) (fun _ _ _ ha hb => ha.trans (State.persists_dmaRequest hb))
      htick hok
  · rw [hf]
    exact s.persists_recordFault f

/-- CONFIGURE binds an unbound motor to an unowned pin, and keeps the registry and each registered time base. -/
theorem State.persists_bindMotor {s : State} {m : Nat} {b : Binding} {c : Channel} (adm : ConfigureAdmitted s m b c) {i : Nat}
    {g : Group} {ids : List TimerId} (hids : s.reg <+: ids) (hg : i < s.reg.length → SameTimeBase (s.group i) g) :
    Persists s (s.bindMotor m b c i g ids) where
  bound n bd hb := by
    have hn : n ≠ m := by
      rintro rfl
      simp [adm.unbound] at hb
    simpa [State.bindMotor_motor, hn] using hb
  pin p hp := by
    have hfree : p ≠ b.pin := by
      rintro rfl
      exact hp adm.pin_free
    exact (s.pin_claimPin b.pin p m b.af).trans (if_neg hfree)
  timeBase j hj := by
    rw [State.bindMotor_group]
    split_ifs with hji
    · obtain ⟨rfl, -⟩ := hji
      exact (hg hj).trans (Group.sameTimeBase_setChan _ c _)
    · exact .refl _
  reg := hids
  fault _ hf := hf

end

/-! ### Commands and turns -/

theorem CommandEffect.persists {s t : State} {i : Instr} (h : CommandEffect s i t) : Persists s t := by
  cases h with
  | raise f => exact s.persists_raiseFault f
  | bindLater adm => exact State.persists_bindMotor adm List.prefix_rfl fun _ => .refl _
  | bindFirst adm => exact State.persists_bindMotor adm (List.prefix_append _ _) fun hlt => absurd hlt (lt_irrefl _)
  | arm => exact s.persists_encodeMotor _ _
  | batchNext => exact s.persists_restartCurrent.trans (State.persists_setCpu _ _)
  | batchLast => exact s.persists_restartCurrent.trans (State.persists_setCpu _ _)
  | complete => exact (s.persists_completeTransfer _).trans (State.persists_advance _)

theorem TurnEffect.persists {s t : State} {turn : Turn} (h : TurnEffect s turn t) : Persists s t := by
  cases h with
  | idle => exact .refl s
  | illegal => exact s.persists_raiseFault _
  | command _ effect => exact effect.persists
  | interrupt => exact s.persists_takeInterrupt _
  | tick => exact s.persists_timerStep _

theorem State.persists_takeTurn (s : State) : Persists s s.takeTurn.2 := by
  rw [State.takeTurn_eq]
  exact { Persists.refl s with }

/-- What a step does not undo. -/
theorem step_persists {s t : State} (h : step s = .next t) : Persists s t :=
  s.persists_takeTurn.trans (step_effect h).persists

/-- Settles O8: reset by definition; a step needs FAULT at NONE; commands, interrupts and ticks keep the record. -/
theorem faultRecordNeverChanges : Obligations.FaultRecordNeverChanges := by
  refine ⟨fun _ _ _ => rfl, fun s t h => ?_, fun s t f i hf h => ?_, fun s f m hf => ?_, fun s f i hf => ?_⟩
  · exact (step_next h).2.1
  · exact (exec_effect h).persists.fault f hf
  · exact (s.persists_takeInterrupt m).fault f hf
  · exact (s.persists_timerStep i).fault f hf

/-- Settles O41. -/
theorem bindingIsForLife : Obligations.BindingIsForLife := fun _ _ m bd h => (step_persists h).bound m bd

/-- Settles O42. -/
theorem ownedPinNeverChanges : Obligations.OwnedPinNeverChanges := fun _ _ p h => (step_persists h).pin p

/-- Settles O43. -/
theorem timeBaseIsWrittenOnce : Obligations.TimeBaseIsWrittenOnce := fun _ _ i h => (step_persists h).timeBase i

end Sys2Proof.Machine
end

section
/-! SUPPORT. What a tick leaves alone, and which turns move the command index, the registry and a stream's enable
(10_state.md R22, R26, R29, R32). -/

namespace Sys2Proof.Machine

/-- The effect of DMA transfers on a motor: its binding and its stream's enable stand, and a flag that is up stays up
(10_state.md R29, R30; 45_streamer.md R196). -/
structure Motor.StreamKept (u u' : Motor) : Prop where
  en : u'.dma.en = u.dma.en
  tcie : u'.dma.tcie = u.dma.tcie
  hreg : u'.hreg = u.hreg
  tcif : u.dma.tcif = true → u'.dma.tcif = true

theorem Motor.StreamKept.refl (u : Motor) : u.StreamKept u := ⟨rfl, rfl, rfl, fun h => h⟩

theorem Motor.StreamKept.trans {u v w : Motor} (h : u.StreamKept v) (k : v.StreamKept w) : u.StreamKept w :=
  ⟨k.en.trans h.en, k.tcie.trans h.tcie, k.hreg.trans h.hreg, fun hu => k.tcif (h.tcif hu)⟩

theorem Motor.streamKept_transferred (u : Motor) : u.StreamKept { u with dma := u.dma.transferred } :=
  ⟨rfl, rfl, rfl, fun h => by simp [DmaStream.transferred, h]⟩

/-- What a tick leaves alone. -/
structure TickFrame (s t : State) : Prop where
  cpu : t.cpu = s.cpu
  reg : t.reg = s.reg
  streams : ∀ m, (s.motor m).StreamKept (t.motor m)

theorem TickFrame.trans {s t u : State} (h : TickFrame s t) (k : TickFrame t u) : TickFrame s u :=
  ⟨k.cpu.trans h.cpu, k.reg.trans h.reg, fun m => (h.streams m).trans (k.streams m)⟩

theorem State.tickFrame_dmaRequest {s t : State} {i : Nat} {c : Channel} (h : s.dmaRequest i c = .ok t) :
    TickFrame s t := by
  obtain rfl | ⟨m, v, -, -, -, -, rfl⟩ := State.dmaRequest_ok h
  · exact ⟨rfl, rfl, fun _ => .refl _⟩
  · refine ⟨rfl, rfl, fun n => ?_⟩
    rw [State.transfer_motor]
    split_ifs with hn
    · exact hn.1 ▸ Motor.streamKept_transferred _
    · exact .refl _

theorem State.tickFrame_timerStep (s : State) (i : Nat) : TickFrame s (s.timerStep i) := by
  have htick : TickFrame s (s.setGroup i (s.group i).tick) := ⟨rfl, rfl, fun _ => .refl _⟩
  obtain hok | ⟨f, -, hf⟩ := s.timerStep_cases i
  · exact State.serveChannels_induction (P := TickFrame s) (fun _ _ _ ha hb => ha.trans (State.tickFrame_dmaRequest hb))
      htick hok
  · rw [hf]
    exact ⟨rfl, rfl, fun _ => .refl _⟩

/-! ### The command index -/

theorem CommandEffect.hpc {s t : State} {i : Instr} (h : CommandEffect s i t) :
    t.cpu.hpc = s.cpu.hpc ∨ t.cpu.hpc = s.cpu.hpc + 1 := by
  cases h with
  | batchNext => exact .inl rfl
  | arm => exact .inr (by simp)
  | raise | bindLater | bindFirst | batchLast | complete => exact .inr rfl

theorem TurnEffect.hpc {s t : State} {turn : Turn} (h : TurnEffect s turn t) :
    t.cpu.hpc = s.cpu.hpc ∨ (t.cpu.hpc = s.cpu.hpc + 1 ∧ turn = .host ∧ s.cpu.hpc < s.prog.length) := by
  cases h with
  | idle => exact .inl rfl
  | illegal word => exact .inr ⟨rfl, rfl, (List.getElem?_eq_some_iff.1 word).1⟩
  | command at_command effect => exact effect.hpc.imp_right fun hpc => ⟨hpc, rfl, at_command.lt_length⟩
  | interrupt main => exact .inl (congrArg Cpu.hpc (State.takeInterrupt_cpu main))
  | tick => exact .inl (congrArg Cpu.hpc (s.tickFrame_timerStep _).cpu)

/-- Settles O39. -/
theorem onlyHostCommandsAdvanceTheIndex : Obligations.OnlyHostCommandsAdvanceTheIndex := by
  intro s t _ h
  simpa using (step_effect h).hpc

/-! ### The registry -/

@[simp] theorem State.restartCurrent_reg (s : State) : s.restartCurrent.reg = s.reg := by
  unfold State.restartCurrent
  split_ifs <;> rfl

/-- A command that writes the registry is a CONFIGURE, and the registry has room for its entry (41_timer_registry.md R140,
R145). -/
theorem CommandEffect.reg {s t : State} {i : Instr} (h : CommandEffect s i t) :
    t.reg = s.reg ∨ (t.reg.length ≤ s.nt ∧ ∃ m v, i = .configure m v) := by
  cases h with
  | bindFirst _ _ room => exact .inr ⟨by simpa using room, _, _, rfl⟩
  | arm => exact .inl (by simp)
  | batchNext | batchLast => exact .inl s.restartCurrent_reg
  | raise | bindLater | complete => exact .inl rfl

theorem TurnEffect.reg {s t : State} {turn : Turn} (h : TurnEffect s turn t) :
    t.reg = s.reg ∨ (t.reg.length ≤ s.nt ∧ turn = .host ∧ ∃ m v, s.AtCommand (.configure m v)) := by
  cases h with
  | command at_command effect =>
    refine effect.reg.imp_right ?_
    rintro ⟨hfits, m, v, rfl⟩
    exact ⟨hfits, rfl, m, v, at_command⟩
  | idle | illegal | interrupt => exact .inl rfl
  | tick => exact .inl (s.tickFrame_timerStep _).reg

/-- Settles O40: a step only appends to the registry, and what CONFIGURE appends fits. -/
theorem registryOnlyGrowsByConfigure : Obligations.RegistryOnlyGrowsByConfigure := by
  refine ⟨fun _ _ _ => rfl, fun s t h => ?_⟩
  have hprefix := (step_persists h).reg
  have hreg := (step_effect h).reg
  have hnt := (parametersAndProgramNeverChange s t h).2.2.2
  simp only [State.takeTurn_reg, State.takeTurn_nt, State.takeTurn_atCommand] at hreg
  refine ⟨fun hfits => ?_, hprefix.length_le, fun i hi => ?_, fun i hi => List.getElem?_eq_none hi, fun hne => ?_⟩
  · rw [hnt]
    obtain hsame | ⟨hroom, -⟩ := hreg
    · rwa [hsame]
    · exact hroom
  · obtain ⟨appended, hl⟩ := hprefix
    rw [← hl, List.getElem?_append_left hi]
  · obtain ⟨-, hturn, m, v, w, hw, hdecode⟩ := hreg.resolve_left hne
    exact ⟨hturn, w, m, v, hw, hdecode⟩

/-! ### A stream's enable and flag -/

/-- The turn runs TC_HANDLER of motor `m`: its interrupt, or the host's command (43_completion_handler.md R170). -/
def State.RunsHandler (s : State) (turn : Turn) (m : Nat) : Prop :=
  turn = .handler m ∨ (turn = .host ∧ s.AtCommand (.tcHandler m))

/-- What a turn can do to motor `m`'s stream, with `u` the motor after it. -/
inductive StreamChange (s : State) (turn : Turn) (m : Nat) (u : Motor) : Prop where
  | kept (same : (s.motor m).StreamKept u)
  /-- CONFIGURE sets an unbound motor's stream up, disabled. -/
  | setUp (unbound : (s.motor m).chan.bound = none) (off : u.dma.en = false)
  /-- ENCODE enables the stream and leaves its flag. -/
  | armed {th : Half} (host : turn = .host) (at_command : s.AtCommand (.encode m th)) (on : u.dma.en = true)
      (flag : u.dma.tcif = (s.motor m).dma.tcif ∧ u.dma.tcie = (s.motor m).dma.tcie ∧ u.hreg = (s.motor m).hreg)
  | handled (runs : s.RunsHandler turn m) (never_on : u.dma.en = true → (s.motor m).dma.en = true)

theorem DmaStream.en_of_completed {d : DmaStream} (h : d.completed.en = true) : d.en = true := by
  unfold DmaStream.completed at h
  split_ifs at h
  exact h

theorem State.streamKept_restartCurrent (s : State) (m : Nat) : (s.motor m).StreamKept (s.restartCurrent.motor m) := by
  unfold State.restartCurrent
  split_ifs <;> exact .refl _

section
variable {s : State}

theorem State.streamChange_bindMotor {k : Nat} (hk : (s.motor k).chan.bound = none) (turn : Turn) (m : Nat) (b : Binding)
    (c : Channel) (j : Nat) (g : Group) (ids : List TimerId) :
    StreamChange s turn m ((s.bindMotor k b c j g ids).motor m) := by
  rw [State.bindMotor_motor]
  split_ifs with hm
  · obtain ⟨rfl, -⟩ := hm
    exact .setUp hk rfl
  · exact .kept (.refl _)

theorem State.streamChange_completeTransfer {turn : Turn} {k : Nat} (hk : s.RunsHandler turn k) (m : Nat) :
    StreamChange s turn m ((s.completeTransfer k).motor m) := by
  rw [State.completeTransfer_motor]
  split_ifs with hm
  · obtain ⟨rfl, -⟩ := hm
    exact .handled hk DmaStream.en_of_completed
  · exact .kept (.refl _)

theorem CommandEffect.stream {t : State} {i : Instr} (h : CommandEffect s i t) (hat : s.AtCommand i) (m : Nat) :
    StreamChange s .host m (t.motor m) := by
  cases h with
  | raise => exact .kept (.refl _)
  | bindLater adm => exact State.streamChange_bindMotor adm.unbound ..
  | bindFirst adm => exact State.streamChange_bindMotor adm.unbound ..
  | arm =>
    rw [State.encodeMotor_motor]
    split_ifs with hm
    · obtain ⟨rfl, -⟩ := hm
      exact .armed rfl hat rfl ⟨rfl, rfl, rfl⟩
    · exact .kept (.refl _)
  | batchNext | batchLast => exact .kept (s.streamKept_restartCurrent m)
  | complete => exact State.streamChange_completeTransfer (.inr ⟨rfl, hat⟩) m

theorem TurnEffect.stream {t : State} {turn : Turn} (h : TurnEffect s turn t) (m : Nat) :
    StreamChange s turn m (t.motor m) := by
  cases h with
  | command at_command effect => exact effect.stream at_command m
  | idle | illegal => exact .kept (.refl _)
  | interrupt =>
    rw [State.takeInterrupt_motor, ← State.completeTransfer_motor]
    exact State.streamChange_completeTransfer (.inl rfl) m
  | tick => exact .kept ((s.tickFrame_timerStep _).streams m)

end

/-- What a step can do to motor `m`'s stream. -/
theorem step_stream {s t : State} (h : step s = .next t) (m : Nat) : StreamChange s s.takeTurn.1 m (t.motor m) := by
  cases (step_effect h).stream m with
  | kept same => exact .kept (by simpa using same)
  | setUp unbound off => exact .setUp (by simpa using unbound) off
  | armed host at_command on flag =>
    exact .armed host (State.takeTurn_atCommand.1 at_command) on (by simpa using flag)
  | handled runs never_on =>
    exact .handled (runs.imp_right (And.imp_right State.takeTurn_atCommand.1)) (by simpa using never_on)

/-- Settles O45: of a stream's changes only ENCODE's enables it and only the handler's disables it; CONFIGURE finds an
unbound motor's stream disabled and leaves it so. -/
theorem streamEnableChangesOnlyByEncodeAndHandler : Obligations.StreamEnableChangesOnlyByEncodeAndHandler := by
  intro s t m hinv h
  cases step_stream h m with
  | kept same =>
    rw [same.en]
    exact ⟨fun hoff hon => absurd (hoff.symm.trans hon) nofun, fun hon hoff => absurd (hoff.symm.trans hon) nofun⟩
  | setUp unbound off =>
    rw [off, hinv.motor_fresh m unbound]
    exact ⟨nofun, nofun⟩
  | @armed th host at_command on =>
    rw [on]
    obtain ⟨w, hw, hdecode⟩ := at_command
    exact ⟨fun _ _ => ⟨host, w, th, hw, hdecode⟩, nofun⟩
  | handled runs never_on =>
    exact ⟨fun hoff hon => absurd (hoff.symm.trans (never_on hon)) nofun, fun _ _ => runs⟩

/-- Settles O32: of a stream's changes only the handler's ends a pending interrupt; a motor that CONFIGURE binds has none
pending before. -/
theorem onlyTheHandlerEndsAPendingInterrupt : Obligations.OnlyTheHandlerEndsAPendingInterrupt := by
  refine ⟨fun s m => by simp [State.pending, and_assoc], fun s t m hinv h hpending hended => ?_⟩
  cases step_stream h m with
  | kept same =>
    simp only [State.pending, same.tcie, same.hreg, Bool.and_eq_true] at hpending hended
    simp [same.tcif hpending.1.1, hpending] at hended
  | setUp unbound =>
    rw [State.pending, hinv.motor_fresh m unbound] at hpending
    cases hpending
  | armed _ _ _ flag =>
    obtain ⟨htcif, htcie, hhreg⟩ := flag
    rw [State.pending, htcif, htcie, hhreg, ← State.pending, hpending] at hended
    cases hended
  | handled runs => exact runs

end Sys2Proof.Machine
end

section
/-! SUPPORT. The invariant over each update of the state: the control fields, one motor, one group, a tick buffer. -/

namespace Sys2Proof.Machine

/-! ### Channels, groups and streams -/

theorem MotorChannel.boundTo_iff {x : MotorChannel} {i : Nat} {c : Channel} :
    x.boundTo i c = true ↔ ∃ bd, x.bound = some bd ∧ bd.grp = i ∧ bd.ch = c := by
  unfold MotorChannel.boundTo
  split <;> simp_all

theorem CompareUnit.Active.ne_reset {x : CompareUnit} (h : x.Active) : x ≠ CompareUnit.reset := by
  rintro rfl
  cases h.src

/-- What the invariant asks of a group's change from `g` to `g'`. -/
structure Group.Keeps (g g' : Group) : Prop where
  running : g.Running → g'.Running
  tid : g'.tid = g.tid
  fresh : ∀ c, g.chan c = CompareUnit.reset → g'.chan c = CompareUnit.reset
  active : ∀ c, (g.chan c).Active → (g'.chan c).Active

theorem CompareUnit.Active.enableSource {x : CompareUnit} (h : x.Active) : x.enableSource.Active := by
  unfold CompareUnit.enableSource
  split_ifs
  · exact { h with dier := rfl }
  · exact h

theorem Group.keeps_restart (g : Group) : g.Keeps g.restart where
  running h := { h with cnt := (by decide : 0#16 ≤ 39#16) }
  tid := rfl
  fresh c h := by
    have hchan : g.restart.chan c = (g.chan c).enableSource := PerChannel.get_map _ _ c
    rw [hchan, h]
    rfl
  active c h := by
    have hchan : g.restart.chan c = (g.chan c).enableSource := PerChannel.get_map _ _ c
    rw [hchan]
    exact h.enableSource

theorem Group.Running.tick {g : Group} (h : g.Running) : g.tick.Running where
  tb := by simp [h.tb]
  variant := by simpa using h.variant
  arr := by simp [h.arr]
  cnt := by
    rw [Group.tick_cnt]
    split_ifs with hwraps
    · decide
    · rw [Group.wraps, h.arr] at hwraps
      bv_omega
  cen := by simp [h.cen]
  arpe := by simp [h.arpe]
  moe := by simp [h.moe]

theorem Group.keeps_tick (g : Group) : g.Keeps g.tick where
  running h := h.tick
  tid := g.tick_tid
  fresh c h := by
    have hcount : g.count.chan c = CompareUnit.reset := by
      rw [Group.count_chan, h]
      split_ifs <;> rfl
    rw [Group.tick_chan, hcount]
    rfl
  active c h :=
    { src := by simp [h.src]
      dier := by simp [h.dier]
      mode := by simp [h.mode]
      ocpe := by simp [h.ocpe]
      ccr := by
        rw [Group.tick_chan_ccr]
        split_ifs
        · exact h.ccrp
        · exact h.ccr
      ccrp := by simpa using h.ccrp }

/-- A compare write puts a legal value into the preload of a channel in use. -/
theorem Group.keeps_writeCompare {g : Group} {c : Channel} (hc : (g.chan c).Active) {v : Half} (hv : compareValue v) :
    g.Keeps (g.setChan c { g.chan c with ccrp := v }) where
  running h := { h with }
  tid := rfl
  fresh d h := by
    have hd : d ≠ c := by
      rintro rfl
      exact hc.ne_reset h
    rwa [Group.chan_setChan_other _ _ hd]
  active d h := by
    by_cases hd : d = c
    · subst hd
      rw [Group.chan_setChan_same]
      exact { h with ccrp := hv }
    · rwa [Group.chan_setChan_other _ _ hd]

theorem DmaStream.Consistent.armed {d : DmaStream} (h : d.Consistent) (hoff : d.en = false) : d.armed.Consistent where
  count := BitVec.le_refl _
  idle := nofun
  flag := by
    have hflag : d.tcif = false := by simpa [hoff] using h.flag
    simp [DmaStream.armed, hflag, Config.bufLen]

theorem DmaStream.Consistent.completed {d : DmaStream} (h : d.Consistent) : d.completed.Consistent := by
  unfold DmaStream.completed
  split_ifs with hflag
  · exact { count := h.count, idle := fun _ => (h.flag.1 hflag).2, flag := by simp }
  · exact h

theorem DmaStream.Consistent.transferred {d : DmaStream} (h : d.Consistent) (hen : d.en = true) (hleft : d.ndtr ≠ 0#16) :
    d.transferred.Consistent where
  count := by
    have := h.count
    show d.ndtr - 1#16 ≤ 16#16
    bv_omega
  idle hoff := absurd (hen.symm.trans hoff) nofun
  flag := by
    have hflag : d.tcif = false := by simpa [hleft] using h.flag
    simp [DmaStream.transferred, hflag, hen]

/-! ### Control fields -/

/-- A COMPLETE_UPDATE_CYCLE can only be in progress at its own word (44_batch_update.md R182). -/
theorem Inv.batch_eq_zero {s : State} (h : Inv s) {w : Word} (hw : s.prog[s.cpu.hpc]? = some w)
    (hdecode : decode w ≠ .ok .completeUpdateCycle) : s.cpu.batch = 0 := by
  by_contra hbatch
  obtain ⟨w', hw', hdecode'⟩ := h.batch_command hbatch
  cases hw.symm.trans hw'
  exact hdecode hdecode'

theorem Inv.batch_eq_zero_of_atCommand {s : State} (h : Inv s) {i : Instr} (hat : s.AtCommand i)
    (hi : i ≠ .completeUpdateCycle) : s.cpu.batch = 0 := by
  obtain ⟨w, hw, hdecode⟩ := hat
  exact h.batch_eq_zero hw (by simpa [hdecode] using hi)

/-- The invariant reads no fault and no schedule, and of the CPU the context and the command in progress. -/
theorem Inv.setControl {s : State} (h : Inv s) {cpu : Cpu} (hmain : cpu.saved = none)
    (hbatch : cpu.batch = 0 ∨ (cpu.batch < s.reg.length ∧ { s with cpu := cpu }.AtCommand .completeUpdateCycle))
    (fault : Option FaultRecord) (sched : List Turn) (choices : Nat) :
    Inv { s with cpu := cpu, fault := fault, sched := sched, choices := choices } :=
  { h with
    batch_in_range := hbatch.imp_right And.left
    batch_command := fun hne => (hbatch.resolve_left hne).2
    main_context := hmain }

theorem Inv.takeTurn {s : State} (h : Inv s) : Inv s.takeTurn.2 := by
  rw [State.takeTurn_eq]
  exact { h with }

theorem Inv.recordFault {s : State} (h : Inv s) (f : FaultRecord) : Inv (s.recordFault f) := { h with }

theorem Inv.advance {s : State} (h : Inv s) (hbatch : s.cpu.batch = 0) : Inv s.advance :=
  h.setControl (cpu := { s.cpu with hpc := s.cpu.hpc + 1 }) h.main_context (.inl hbatch) _ _ _

theorem Inv.raiseFault {s : State} (h : Inv s) (hbatch : s.cpu.batch = 0) (f : FaultRecord) : Inv (s.raiseFault f) :=
  (h.recordFault f).advance hbatch

/-! ### One group -/

/-- A registered group's change that keeps what the invariant asks of a group keeps the invariant. -/
theorem Inv.setGroup {s : State} (h : Inv s) {i : Nat} {g : Group} (hi : i < s.reg.length) (hg : (s.group i).Keeps g) :
    Inv (s.setGroup i g) := by
  have hgroup : ∀ j, (s.setGroup i g).group j = if j = i then g else s.group j := fun j => by
    rw [State.group_setGroup]
    simp [hi.trans_le h.reg_fits]
  exact
    { h with
      reg_fits := h.reg_fits.trans_eq (s.nt_setGroup i g).symm
      group_fresh := fun j hj => by
        have hji : j ≠ i := (hi.trans_le hj).ne'
        rw [hgroup, if_neg hji, h.group_fresh j hj]
      group_running := fun j hj => by
        rw [hgroup]
        split_ifs with hji
        · exact hg.running (h.group_running i hi)
        · exact h.group_running j hj
      group_timer := fun j hj => by
        rw [hgroup]
        split_ifs with hji
        · rw [hg.tid, hji]
          exact h.group_timer i hi
        · exact h.group_timer j hj
      channel_fresh := fun j c hfree => by
        have hchan := h.channel_fresh j c hfree
        rw [hgroup]
        split_ifs with hji
        · exact hg.fresh c (hji ▸ hchan)
        · exact hchan
      channel_active := fun j c m hbound => by
        have hchan := h.channel_active j c m hbound
        rw [hgroup]
        split_ifs with hji
        · exact hg.active c (hji ▸ hchan)
        · exact hchan }

theorem Inv.restartCurrent {s : State} (h : Inv s) : Inv s.restartCurrent := by
  unfold State.restartCurrent
  split_ifs with hbatch
  · exact h.setGroup hbatch (Group.keeps_restart _)
  · exact h

/-! ### One motor -/

/-- What the invariant asks of a motor's change from `u` to `u'`, but for its stream's count. -/
structure Motor.SameSetup (u u' : Motor) : Prop where
  bound : u'.chan.bound = u.chan.bound
  tcie : u'.dma.tcie = u.dma.tcie
  hreg : u'.hreg = u.hreg
  setup : u'.dma.setup = u.dma.setup
  fresh : u.chan.bound = none → u' = u

theorem Motor.SameSetup.refl (u : Motor) : u.SameSetup u := ⟨rfl, rfl, rfl, rfl, fun _ => rfl⟩

/-- A motor's change that keeps its set-up and leaves its stream consistent, with its buffer written where it is enabled,
keeps the invariant. -/
theorem Inv.setMotor {s : State} (h : Inv s) {m : Nat} {u : Motor} (hsame : (s.motor m).SameSetup u)
    (hstream : u.dma.Consistent)
    (hbuffer : u.dma.en = true → ∀ k, k < 16 → s.readTick m k = some 14#8 ∨ s.readTick m k = some 29#8) :
    Inv (s.setMotor m u) := by
  have hmotor : ∀ n, (s.setMotor m u).motor n = if n = m ∧ m < s.nm then u else s.motor n :=
    fun n => s.motor_setMotor m n u
  have hkeep : ∀ n, (s.motor n).SameSetup ((s.setMotor m u).motor n) := fun n => by
    rw [hmotor]
    split_ifs with hn
    · exact hn.1 ▸ hsame
    · exact .refl _
  have hbound : ∀ n, ((s.setMotor m u).motor n).chan.bound = (s.motor n).chan.bound := fun n => (hkeep n).bound
  have hboundTo : ∀ n i c, ((s.setMotor m u).motor n).chan.boundTo i c = (s.motor n).chan.boundTo i c := fun n i c => by
    simp only [MotorChannel.boundTo, hbound]
  exact
    { h with
      channel_fresh := fun i c hfree => h.channel_fresh i c fun n => (hboundTo n i c).symm.trans (hfree n)
      channel_active := fun i c n hb => h.channel_active i c n ((hboundTo n i c).symm.trans hb)
      bound_registered := fun n bd hb => h.bound_registered n bd ((hbound n).symm.trans hb)
      one_motor_per_channel := fun n n' bd bd' hb hb' =>
        h.one_motor_per_channel n n' bd bd' ((hbound n).symm.trans hb) ((hbound n').symm.trans hb')
      one_motor_per_stream := fun n n' bd bd' hb hb' =>
        h.one_motor_per_stream n n' bd bd' ((hbound n).symm.trans hb) ((hbound n').symm.trans hb')
      pin_owned := fun n bd hb => h.pin_owned n bd ((hbound n).symm.trans hb)
      motor_fresh := fun n hb => by
        have hfree := (hbound n).symm.trans hb
        rw [(hkeep n).fresh hfree]
        exact h.motor_fresh n hfree
      motor_ready := fun n bd hb => by
        rw [(hkeep n).tcie, (hkeep n).hreg, (hkeep n).setup]
        exact h.motor_ready n bd ((hbound n).symm.trans hb)
      stream_consistent := fun n => by
        rw [hmotor]
        split_ifs
        · exact hstream
        · exact h.stream_consistent n
      buffer_written := fun n k hen hk => by
        rw [hmotor] at hen
        split_ifs at hen with hn
        · exact hn.1 ▸ hbuffer hen k hk
        · exact h.buffer_written n k hen hk }

theorem Inv.completeTransfer {s : State} (h : Inv s) (m : Nat) : Inv (s.completeTransfer m) := by
  refine h.setMotor ?_ (h.stream_consistent m).completed fun hen => ?_
  · refine ⟨rfl, ?_, rfl, ?_, fun hfree => ?_⟩
    · show (s.motor m).dma.completed.tcie = _
      unfold DmaStream.completed
      split_ifs <;> rfl
    · show (s.motor m).dma.completed.setup = _
      unfold DmaStream.completed
      split_ifs <;> rfl
    · rw [h.motor_fresh m hfree]
      rfl
  · exact fun k => h.buffer_written m k (DmaStream.en_of_completed hen)

/-- From the main context, an interrupt taken is the handler's effect alone (60_exceptions.md R227). -/
theorem State.takeInterrupt_eq {s : State} (hmain : s.cpu.saved = none) (m : Nat) :
    s.takeInterrupt m = s.completeTransfer m := by
  have hcpu := State.takeInterrupt_cpu (m := m) hmain
  calc s.takeInterrupt m = { s.completeTransfer m with cpu := (s.takeInterrupt m).cpu } := rfl
    _ = s.completeTransfer m := by rw [hcpu]; rfl

/-! ### Tick buffers -/

theorem tick_values (fr : Half) (k : Nat) : tick fr k = 14#8 ∨ tick fr k = 29#8 := by
  unfold tick
  split_ifs
  · exact .inr rfl
  · exact .inl rfl

/-- ENCODE's buffer writes fill motor `m`'s buffer from the frame and leave every other buffer (40_encoder.md R116). -/
theorem State.readTick_writeTicks (s : State) (m : Nat) (fr : Half) {n k : Nat} (hk : k < 16) :
    (s.writeTicks m fr Config.bufLen).readTick n k = if n = m then some (tick fr k) else s.readTick n k := by
  simp only [State.readTick, Config.bufLen, hk, if_true, State.read_writeTicks]
  by_cases hn : n = m
  · have hin : bufAddr m 0 ≤ bufAddr m k ∧ bufAddr m k < bufAddr m 0 + 16 := by
      unfold bufAddr
      omega
    simp only [hn, hin, and_self, if_true]
    simp [bufAddr]
  · have hout : ¬(bufAddr m 0 ≤ bufAddr n k ∧ bufAddr n k < bufAddr m 0 + 16) := by
      unfold bufAddr
      omega
    simp [hn, hout]

theorem State.readTick_writeTicks_self (s : State) (m : Nat) (fr : Half) {k : Nat} (hk : k < 16) :
    (s.writeTicks m fr Config.bufLen).readTick m k = some 14#8 ∨
      (s.writeTicks m fr Config.bufLen).readTick m k = some 29#8 := by
  rw [s.readTick_writeTicks m fr hk, if_pos rfl]
  exact (tick_values fr k).imp (congrArg some) (congrArg some)

theorem Inv.setMem {s : State} (h : Inv s) {mem : Memory} (hwf : mem.wf)
    (hbuffer : ∀ m k, (s.motor m).dma.en = true → k < 16 →
      { s with mem := mem }.readTick m k = some 14#8 ∨ { s with mem := mem }.readTick m k = some 29#8) :
    Inv { s with mem := mem } :=
  { h with mem_canonical := hwf, buffer_written := hbuffer }

theorem Inv.writeTicks {s : State} (h : Inv s) (m : Nat) (fr : Half) : Inv (s.writeTicks m fr Config.bufLen) := by
  have hafter : Inv { s with mem := (s.writeTicks m fr Config.bufLen).mem } := by
    refine h.setMem (State.wf_writeTicks h.mem_canonical m fr _) fun n k hen hk => ?_
    rw [← State.writeTicks_eq]
    by_cases hn : n = m
    · subst hn
      exact s.readTick_writeTicks_self n fr hk
    · rw [s.readTick_writeTicks m fr hk, if_neg hn]
      exact h.buffer_written n k hen hk
  rwa [← State.writeTicks_eq] at hafter

theorem Inv.encodeMotor {s : State} (h : Inv s) (hbatch : s.cpu.batch = 0) {m : Nat} {bd : Bound}
    (hbound : (s.motor m).chan.bound = some bd) (hoff : (s.motor m).dma.en = false) (th : Half) :
    Inv (s.encodeMotor m th) := by
  refine Inv.advance ((h.writeTicks m (frame th)).setMotor ?_ ?_ ?_) (by simpa using hbatch)
  · rw [State.motor_writeTicks]
    exact ⟨rfl, rfl, rfl, rfl, fun hfree => by simp [hbound] at hfree⟩
  · exact (h.stream_consistent m).armed hoff
  · exact fun _ k hk => s.readTick_writeTicks_self m (frame th) hk

end Sys2Proof.Machine
end

section
/-! SUPPORT. The invariant over a timer step (45_streamer.md R191, R196). -/

namespace Sys2Proof.Machine

variable {s : State}

/-- The entry a transfer moves, zero-extended, is a compare value. -/
theorem Inv.compareValue_of_nextEntry (h : Inv s) {m : Nat} (hen : (s.motor m).dma.en = true)
    (hleft : (s.motor m).dma.ndtr ≠ 0#16) {v : Byte} (hv : s.nextEntry m = some v) :
    compareValue (BitVec.setWidth 16 v) := by
  have hentry : Config.bufLen - (s.motor m).dma.ndtr.toNat < 16 := by
    have hpos : 0 < (s.motor m).dma.ndtr.toNat := by bv_omega
    unfold Config.bufLen
    omega
  have hread : s.readTick m (Config.bufLen - (s.motor m).dma.ndtr.toNat) = some v := by
    unfold State.nextEntry at hv
    split_ifs at hv
    exact hv
  rcases h.buffer_written m _ hen hentry with hw | hw <;> cases hread.symm.trans hw
  · exact .inr (.inl rfl)
  · exact .inr (.inr rfl)

theorem Inv.dmaRequest (h : Inv s) {t : State} {i : Nat} {c : Channel} (hok : s.dmaRequest i c = .ok t) : Inv t := by
  obtain rfl | ⟨m, v, hserved, hen, hleft, hv, rfl⟩ := State.dmaRequest_ok hok
  · exact h
  · obtain ⟨-, hbound⟩ := State.servedMotor_some hserved
    obtain ⟨bd, hbd, rfl, rfl⟩ := MotorChannel.boundTo_iff.1 hbound
    have hwrite : Inv (s.writeCompare bd.grp bd.ch (BitVec.setWidth 16 v)) :=
      h.setGroup (h.bound_registered m bd hbd) (Group.keeps_writeCompare (h.channel_active _ _ m hbound)
        (h.compareValue_of_nextEntry hen hleft hv))
    exact hwrite.setMotor ⟨rfl, rfl, rfl, rfl, fun hfree => absurd (hbd.symm.trans hfree) nofun⟩
      ((h.stream_consistent m).transferred hen hleft) fun _ k => h.buffer_written m k hen

/-- A group that counts is registered. -/
theorem Inv.registered_of_cen (h : Inv s) {i : Nat} (hcen : (s.group i).cen = true) : i < s.reg.length := by
  by_contra hi
  rw [h.group_fresh i (not_lt.1 hi)] at hcen
  cases hcen

theorem Inv.timerStep (h : Inv s) {i : Nat} (hcen : (s.group i).cen = true) : Inv (s.timerStep i) := by
  have htick : Inv (s.setGroup i (s.group i).tick) := h.setGroup (h.registered_of_cen hcen) (Group.keeps_tick _)
  obtain hok | ⟨f, -, hf⟩ := s.timerStep_cases i
  · exact State.serveChannels_induction (P := Inv) (fun _ _ _ ha hb => ha.dmaRequest hb) htick hok
  · rw [hf]
    exact h.recordFault f

end Sys2Proof.Machine
end

section
/-! SUPPORT. The invariant over CONFIGURE (42_configurator.md R150 to R163). -/

namespace Sys2Proof.Machine

/-- Group `i` as GET_OR_CREATE and TIMEBASE leave it for timer `t`: registered under `ids`, running as `g`, with its channels
as they were (42_configurator.md R153, R154; 41_timer_registry.md R140). -/
structure GroupReady (s : State) (t : TimerId) (i : Nat) (g : Group) (ids : List TimerId) : Prop where
  kept : s.reg <+: ids
  fits : ids.length ≤ s.nt
  distinct : ids.Nodup
  index : ids[i]? = some t
  others : ∀ j, j ≠ i → (j < ids.length ↔ j < s.reg.length)
  running : g.Running
  tid : g.tid = some t
  chans : g.chans = (s.group i).chans

theorem Inv.groupReady_later {s : State} (h : Inv s) {t : TimerId} {i : Nat} (hknown : s.reg[i]? = some t) :
    GroupReady s t i (s.group i) s.reg := by
  have hi : i < s.reg.length := (List.getElem?_eq_some_iff.1 hknown).1
  exact ⟨List.prefix_rfl, h.reg_fits, h.reg_distinct, hknown, fun _ _ => .rfl, h.group_running i hi,
    (h.group_timer i hi).trans hknown, rfl⟩

theorem Group.running_start (g : Group) (t : TimerId) (v : Variant) (psc : Half) : ((g.timeBase t v psc).start).Running :=
  ⟨rfl, nofun, rfl, (by decide : 0#16 ≤ 39#16), rfl, rfl, rfl⟩

theorem Inv.groupReady_first {s : State} (h : Inv s) {t : TimerId} (hnew : t ∉ s.reg) (hroom : s.reg.length < s.nt)
    (v : Variant) (psc : Half) :
    GroupReady s t s.reg.length (((s.group s.reg.length).timeBase t v psc).start) (s.reg ++ [t]) where
  kept := List.prefix_append _ _
  fits := by simpa using hroom
  distinct := by
    rw [List.nodup_append_comm]
    exact List.nodup_cons.2 ⟨hnew, h.reg_distinct⟩
  index := by simp
  others j hj := by
    simp
    omega
  running := Group.running_start _ t v psc
  tid := rfl
  chans := rfl

theorem CompareUnit.active_addChannel (g : Group) (c : Channel) : ((g.addChannel c).chan c).Active := by
  unfold Group.addChannel
  rw [Group.chan_setChan_same]
  exact ⟨rfl, rfl, rfl, rfl, .inl rfl, .inl rfl⟩

theorem GroupReady.lt_length {s : State} {t : TimerId} {i : Nat} {g : Group} {ids : List TimerId}
    (hr : GroupReady s t i g ids) : i < ids.length := (List.getElem?_eq_some_iff.1 hr.index).1

/-- The registry's entries stand. -/
theorem GroupReady.getElem?_eq {s : State} {t : TimerId} {i j : Nat} {g : Group} {ids : List TimerId}
    (hr : GroupReady s t i g ids) (hj : j < s.reg.length) : ids[j]? = s.reg[j]? := by
  obtain ⟨new, hnew⟩ := hr.kept
  rw [← hnew, List.getElem?_append_left hj]

section
variable {s : State} {m : Nat} {b : Binding} {c : Channel} {i : Nat} {g : Group} {ids : List TimerId}

/-- No motor is bound to the channel that CONFIGURE's check 8 found free. -/
theorem Inv.channel_unused (h : Inv s) (adm : ConfigureAdmitted s m b c) (hr : GroupReady s b.timerId i g ids) {n : Nat}
    {bd : Bound} (hb : (s.motor n).chan.bound = some bd) : ¬(bd.grp = i ∧ bd.ch = c) := by
  rintro ⟨rfl, hch⟩
  refine adm.channel_free hb ?_ hch
  rw [← hr.getElem?_eq (h.bound_registered n bd hb), hr.index]

/-- A motor's binding after CONFIGURE: the new one, or another motor's old one. -/
theorem State.bindMotor_bound {n : Nat} {bd : Bound} (hm : m < s.nm)
    (hb : ((s.bindMotor m b c i g ids).motor n).chan.bound = some bd) :
    (n = m ∧ bd = ⟨i, c, b.stream, b.pin⟩) ∨ (n ≠ m ∧ (s.motor n).chan.bound = some bd) := by
  rw [State.bindMotor_motor] at hb
  split_ifs at hb with hn
  · exact .inl ⟨hn.1, (Option.some.inj hb).symm⟩
  · exact .inr ⟨fun he => hn ⟨he, hm⟩, hb⟩

/-- CONFIGURE's motor is on its channel. -/
theorem State.bindMotor_boundTo_self (hm : m < s.nm) :
    ((s.bindMotor m b c i g ids).motor m).chan.boundTo i c = true := by
  rw [State.bindMotor_motor, if_pos ⟨rfl, hm⟩]
  exact MotorChannel.boundTo_iff.2 ⟨_, rfl, rfl, rfl⟩

/-- The channels other than CONFIGURE's own are as they were. -/
theorem GroupReady.bindMotor_chan_other (hr : GroupReady s b.timerId i g ids) {j : Nat} {d : Channel}
    (hd : ¬(j = i ∧ d = c)) : ((s.bindMotor m b c i g ids).group j).chan d = (s.group j).chan d := by
  rw [State.bindMotor_group]
  split_ifs with hj
  · obtain ⟨rfl, -⟩ := hj
    have hdc : d ≠ c := fun he => hd ⟨rfl, he⟩
    unfold Group.addChannel
    rw [Group.chan_setChan_other _ _ hdc, Group.chan, hr.chans]
    rfl
  · rfl

/-- Group `i` after CONFIGURE. -/
theorem GroupReady.bindMotor_group_self (hr : GroupReady s b.timerId i g ids) :
    (s.bindMotor m b c i g ids).group i = g.addChannel c := by
  rw [State.bindMotor_group, if_pos ⟨rfl, hr.lt_length.trans_le hr.fits⟩]

theorem State.bindMotor_group_other {j : Nat} (hj : j ≠ i) : (s.bindMotor m b c i g ids).group j = s.group j := by
  rw [State.bindMotor_group, if_neg fun h => hj h.1]

theorem State.bindMotor_motor_self (hm : m < s.nm) :
    (s.bindMotor m b c i g ids).motor m = (s.motor m).configured m i c b := by
  rw [State.bindMotor_motor, if_pos ⟨rfl, hm⟩]

theorem State.bindMotor_motor_other {n : Nat} (hn : n ≠ m) : (s.bindMotor m b c i g ids).motor n = s.motor n := by
  rw [State.bindMotor_motor, if_neg fun h => hn h.1]

/-- CONFIGURE keeps the invariant: the checks it has passed keep motors apart on channels, streams and pins. -/
theorem Inv.bindMotor (h : Inv s) (hbatch : s.cpu.batch = 0) (adm : ConfigureAdmitted s m b c)
    (hr : GroupReady s b.timerId i g ids) : Inv (s.bindMotor m b c i g ids) where
  mem_canonical := h.mem_canonical
  pins_canonical := pinsWf_claimPin h.pins_canonical _ _ _
  reg_fits := hr.fits.trans_eq (State.bindMotor_nt ..).symm
  reg_distinct := hr.distinct
  batch_in_range := .inl hbatch
  batch_command hne := absurd hbatch hne
  main_context := h.main_context
  group_fresh j hj := by
    have hji : j ≠ i := (hr.lt_length.trans_le hj).ne'
    rw [State.bindMotor_group_other hji]
    exact h.group_fresh j (hr.kept.length_le.trans hj)
  group_running j hj := by
    by_cases hji : j = i
    · rw [hji, hr.bindMotor_group_self]
      exact { hr.running with }
    · rw [State.bindMotor_group_other hji]
      exact h.group_running j ((hr.others j hji).1 hj)
  group_timer j hj := by
    by_cases hji : j = i
    · rw [hji, hr.bindMotor_group_self]
      exact hr.tid.trans hr.index.symm
    · have hold := (hr.others j hji).1 hj
      rw [State.bindMotor_group_other hji, h.group_timer j hold]
      exact (hr.getElem?_eq hold).symm
  channel_fresh j d hfree := by
    have hd : ¬(j = i ∧ d = c) := by
      rintro ⟨rfl, rfl⟩
      exact absurd ((State.bindMotor_boundTo_self adm.in_range).symm.trans (hfree m)) nofun
    rw [hr.bindMotor_chan_other hd]
    refine h.channel_fresh j d fun n => ?_
    by_cases hn : n = m
    · rw [hn, MotorChannel.boundTo, adm.unbound]
    · rw [← State.bindMotor_motor_other hn]
      exact hfree n
  channel_active j d n hbound := by
    obtain ⟨bd, hb, rfl, rfl⟩ := MotorChannel.boundTo_iff.1 hbound
    obtain ⟨-, rfl⟩ | ⟨-, hold⟩ := State.bindMotor_bound adm.in_range hb
    · rw [hr.bindMotor_group_self]
      exact CompareUnit.active_addChannel g c
    · rw [hr.bindMotor_chan_other (h.channel_unused adm hr hold)]
      exact h.channel_active _ _ n (MotorChannel.boundTo_iff.2 ⟨bd, hold, rfl, rfl⟩)
  bound_registered n bd hb := by
    obtain ⟨-, rfl⟩ | ⟨-, hold⟩ := State.bindMotor_bound adm.in_range hb
    · exact hr.lt_length
    · exact (h.bound_registered n bd hold).trans_le hr.kept.length_le
  one_motor_per_channel n n' bd bd' hb hb' hgrp hch := by
    obtain ⟨rfl, rfl⟩ | ⟨-, hold⟩ := State.bindMotor_bound adm.in_range hb <;>
      obtain ⟨rfl, rfl⟩ | ⟨-, hold'⟩ := State.bindMotor_bound adm.in_range hb'
    · rfl
    · exact absurd ⟨hgrp.symm, hch.symm⟩ (h.channel_unused adm hr hold')
    · exact absurd ⟨hgrp, hch⟩ (h.channel_unused adm hr hold)
    · exact h.one_motor_per_channel n n' bd bd' hold hold' hgrp hch
  one_motor_per_stream n n' bd bd' hb hb' hstream := by
    obtain ⟨rfl, rfl⟩ | ⟨-, hold⟩ := State.bindMotor_bound adm.in_range hb <;>
      obtain ⟨rfl, rfl⟩ | ⟨-, hold'⟩ := State.bindMotor_bound adm.in_range hb'
    · rfl
    · exact absurd hstream.symm (adm.stream_free hold')
    · exact absurd hstream (adm.stream_free hold)
    · exact h.one_motor_per_stream n n' bd bd' hold hold' hstream
  pin_owned n bd hb := by
    have hpin : ∀ p, (s.bindMotor m b c i g ids).pin p = if p = b.pin then ⟨.motor m, .af b.af⟩ else s.pin p := fun p =>
      s.pin_claimPin b.pin p m b.af
    rw [hpin]
    obtain ⟨rfl, rfl⟩ | ⟨-, hold⟩ := State.bindMotor_bound adm.in_range hb
    · rw [if_pos rfl]
    · have howned := h.pin_owned n bd hold
      rw [if_neg fun he => ?_]
      · exact howned
      · rw [he, adm.pin_free] at howned
        cases howned
  motor_fresh n hfree := by
    by_cases hn : n = m
    · rw [hn, State.bindMotor_motor_self adm.in_range] at hfree
      cases hfree
    · rw [State.bindMotor_motor_other hn] at hfree ⊢
      exact h.motor_fresh n hfree
  motor_ready n bd hb := by
    obtain ⟨rfl, rfl⟩ | ⟨hn, hold⟩ := State.bindMotor_bound adm.in_range hb
    · rw [State.bindMotor_motor_self adm.in_range]
      exact ⟨rfl, rfl, rfl⟩
    · rw [State.bindMotor_motor_other hn]
      exact h.motor_ready n bd hold
  stream_consistent n := by
    by_cases hn : n = m
    · rw [hn, State.bindMotor_motor_self adm.in_range]
      exact ⟨(by decide : 0#16 ≤ 16#16), fun _ => rfl, ⟨nofun, nofun⟩⟩
    · rw [State.bindMotor_motor_other hn]
      exact h.stream_consistent n
  buffer_written n k hen hk := by
    by_cases hn : n = m
    · rw [hn, State.bindMotor_motor_self adm.in_range] at hen
      cases hen
    · rw [State.bindMotor_motor_other hn] at hen
      exact h.buffer_written n k hen hk

end

/-! ### Commands, turns and reset -/

theorem Inv.command {s t : State} (h : Inv s) {i : Instr} (hat : s.AtCommand i) (heffect : CommandEffect s i t) :
    Inv t := by
  cases heffect with
  | raise f hi => exact h.raiseFault (h.batch_eq_zero_of_atCommand hat hi) f
  | bindLater admitted known =>
    exact h.bindMotor (h.batch_eq_zero_of_atCommand hat nofun) admitted (h.groupReady_later known)
  | bindFirst admitted new room =>
    exact h.bindMotor (h.batch_eq_zero_of_atCommand hat nofun) admitted (h.groupReady_first new room _ _)
  | arm bound idle => exact h.encodeMotor (h.batch_eq_zero_of_atCommand hat nofun) bound idle _
  | batchNext more =>
    have hcommand : { s.restartCurrent with cpu := { s.cpu with batch := s.cpu.batch + 1 } }.AtCommand
        .completeUpdateCycle := by
      simpa [State.AtCommand, s.sameSetting_restartCurrent.prog] using hat
    exact h.restartCurrent.setControl (cpu := { s.cpu with batch := s.cpu.batch + 1 }) h.main_context
      (.inr ⟨by simpa using more, hcommand⟩) _ _ _
  | batchLast =>
    exact h.restartCurrent.setControl (cpu := { s.cpu with batch := 0, hpc := s.cpu.hpc + 1 }) h.main_context (.inl rfl)
      _ _ _
  | complete => exact (h.completeTransfer _).advance (h.batch_eq_zero_of_atCommand hat nofun)

theorem Inv.turn {s t : State} {turn : Turn} (h : Inv s) (heffect : TurnEffect s turn t) : Inv t := by
  cases heffect with
  | idle => exact h
  | illegal word bad => exact h.raiseFault (h.batch_eq_zero word (by simp [bad])) _
  | command at_command effect => exact h.command at_command effect
  | interrupt main =>
    rw [State.takeInterrupt_eq main]
    exact h.completeTransfer _
  | tick runs => exact h.timerStep runs

/-- Settles O13: taking the turn keeps the invariant, and so does each effect a turn can have. -/
theorem stepKeepsTheInvariant : Obligations.StepKeepsTheInvariant := fun _ _ hinv h =>
  hinv.takeTurn.turn (step_effect h)

section
variable (nm nt : Nat) (p : Platform)

@[simp] theorem State.motor_resetWith (m : Nat) : (State.resetWith nm nt p).motor m = Motor.reset := by
  simp [State.motor, State.resetWith]

@[simp] theorem State.group_resetWith (i : Nat) : (State.resetWith nm nt p).group i = Group.reset := by
  simp [State.group, State.resetWith]

end

/-- Settles O12: every motor and every group is at reset, nothing is registered, and the pins are canonical. -/
theorem resetMeetsTheInvariant : Obligations.ResetMeetsTheInvariant := fun nm nt p =>
  have unbound : ∀ {m bd}, ((State.resetWith nm nt p).motor m).chan.bound ≠ some bd := by simp [Motor.reset]
  { mem_canonical := Memory.wf_nil
    pins_canonical := pinsWf_atReset p.pinOwners0
    reg_fits := Nat.zero_le _
    reg_distinct := List.nodup_nil
    batch_in_range := .inl rfl
    batch_command := fun hne => absurd rfl hne
    main_context := rfl
    group_fresh := fun i _ => State.group_resetWith nm nt p i
    group_running := nofun
    group_timer := nofun
    channel_fresh := fun i c _ => by
      rw [State.group_resetWith]
      cases c <;> rfl
    channel_active := fun i c m hbound => by
      obtain ⟨bd, hb, -⟩ := MotorChannel.boundTo_iff.1 hbound
      exact absurd hb unbound
    bound_registered := fun _ _ hb => absurd hb unbound
    one_motor_per_channel := fun _ _ _ _ hb => absurd hb unbound
    one_motor_per_stream := fun _ _ _ _ hb => absurd hb unbound
    pin_owned := fun _ _ hb => absurd hb unbound
    motor_fresh := fun m _ => State.motor_resetWith nm nt p m
    motor_ready := fun _ _ hb => absurd hb unbound
    stream_consistent := fun m => by
      rw [State.motor_resetWith]
      exact DmaStream.consistent_of_check rfl
    buffer_written := fun m k hen => by
      rw [State.motor_resetWith] at hen
      cases hen }

end Sys2Proof.Machine
end

section
/-! SUPPORT. The command word as the concatenation of its fields (30_encoding.md R87), which words decode and to what (R88,
R89), and what an ILLEGAL word does (R90). -/

namespace Sys2Proof

/-! ### The command word -/

section
variable (op : BitVec 4) (m : Byte) (imm : Half)

/-- R87's row of fields, `OP`, `R1 = 0`, `M` and `IMM`. -/
theorem packWord_eq_append : packWord op m imm = op ++ 0#4 ++ m ++ imm := by
  simpa [packWord] using
    (BitVec.setWidth_append_append_append_eq_shiftLeft_setWidth_or (b := op) (b' := 0#4) (b'' := m) (b''' := imm)
      (w'''' := 32)).symm

@[simp] theorem opField_packWord : opField (packWord op m imm) = op := by
  rw [opField, packWord_eq_append, BitVec.extractLsb'_append_eq_of_le (by decide),
    BitVec.extractLsb'_append_eq_of_le (by decide)]
  exact BitVec.extractLsb'_append_eq_left

@[simp] theorem reservedField_packWord : reservedField (packWord op m imm) = 0#4 := by
  rw [reservedField, packWord_eq_append, BitVec.extractLsb'_append_eq_of_le (by decide),
    BitVec.extractLsb'_append_eq_of_le (by decide)]
  exact BitVec.extractLsb'_append_eq_right

@[simp] theorem motorField_packWord : motorField (packWord op m imm) = m := by
  rw [motorField, packWord_eq_append, BitVec.extractLsb'_append_eq_of_le (by decide)]
  exact BitVec.extractLsb'_append_eq_right

@[simp] theorem immField_packWord : immField (packWord op m imm) = imm := by
  rw [immField, packWord_eq_append]
  exact BitVec.extractLsb'_append_eq_right

end

/-- A word with `R1 = 0` is the word of its fields. -/
theorem packWord_fields {w : Word} (h : reservedField w = 0#4) :
    packWord (opField w) (motorField w) (immField w) = w := by
  rw [packWord_eq_append, ← h, opField, reservedField, motorField, immField,
    BitVec.extractLsb'_append_extractLsb'_eq_extractLsb' (start₁ := 24) (len₁ := 4) rfl,
    BitVec.extractLsb'_append_extractLsb'_eq_extractLsb' (start₁ := 16) (len₁ := 8) rfl]
  exact BitVec.extractLsb'_append_extractLsb'

@[simp] theorem extractLsb'_bitOfVariant (v : Variant) : (bitOfVariant v).extractLsb' 1 15 = 0#15 := by
  cases v <;> rfl

@[simp] theorem variantOfBit_bitOfVariant (v : Variant) : variantOfBit (bitOfVariant v)[0] = v := by
  cases v <;> rfl

theorem bitOfVariant_variantOfBit (b : Bool) : bitOfVariant (variantOfBit b) = 0#15 ++ BitVec.ofBool b := by
  cases b <;> rfl

/-- An operand of CONFIGURE with its reserved bits 0 is the bit of its variant (R86). -/
theorem bitOfVariant_variantOfBit_self {imm : Half} (h : imm.extractLsb' 1 15 = 0#15) :
    bitOfVariant (variantOfBit imm[0]) = imm := by
  have hbit : BitVec.ofBool imm[0] = imm.extractLsb' 0 1 := by
    ext j hj
    obtain rfl : j = 0 := by omega
    simp
  rw [bitOfVariant_variantOfBit, ← h, hbit]
  exact BitVec.extractLsb'_append_extractLsb'

/-! ### The decoder -/

/-- The decoder's answers, row by row of the opcode table (30_encoding.md R88, R89). -/
theorem decode_eq_ok_iff {w : Word} {i : Instr} : decode w = .ok i ↔ reservedField w = 0#4 ∧
    (opField w = 1#4 ∧ (immField w).extractLsb' 1 15 = 0#15 ∧
        .configure (motorField w).toNat (variantOfBit (immField w)[0]) = i ∨
      opField w = 2#4 ∧ .encode (motorField w).toNat (immField w) = i ∨
      opField w = 3#4 ∧ (motorField w = 0#8 ∧ immField w = 0#16) ∧ .completeUpdateCycle = i ∨
      opField w = 4#4 ∧ immField w = 0#16 ∧ .tcHandler (motorField w).toNat = i) := by
  by_cases hr : reservedField w = 0#4
  · simp only [decode, hr, ne_eq, not_true, if_false, true_and]
    split_ifs <;> simp [*]
  · simp [decode, hr]

/-- A word that decodes is the word of its command. -/
theorem encode_of_decode_eq_ok {w : Word} {i : Instr} (h : decode w = .ok i) : encode i = w := by
  obtain ⟨hr, ⟨hop, himm, rfl⟩ | ⟨hop, rfl⟩ | ⟨hop, ⟨hm, himm⟩, rfl⟩ | ⟨hop, himm, rfl⟩⟩ := decode_eq_ok_iff.1 h
  · simpa [encode, bitOfVariant_variantOfBit_self himm, hop] using packWord_fields hr
  · simpa [encode, hop] using packWord_fields hr
  · simpa [encode, hop, hm, himm] using packWord_fields hr
  · simpa [encode, hop, himm] using packWord_fields hr

@[simp] theorem reservedField_encode (i : Instr) : reservedField (encode i) = 0#4 := by
  cases i <;> exact reservedField_packWord ..

/-- Settles O1: every field of the packed word is read back, and an index below 256 fits the field `M`. -/
theorem decodeOfEncodeIsTheCommand : Obligations.DecodeOfEncodeIsTheCommand := by
  intro i hwf
  refine decode_eq_ok_iff.2 ⟨reservedField_encode i, ?_⟩
  cases i with
  | configure m v =>
    have hm : m < 256 := of_decide_eq_true hwf
    simp [encode, Nat.mod_eq_of_lt hm]
  | encode m th =>
    have hm : m < 256 := of_decide_eq_true hwf
    simp [encode, Nat.mod_eq_of_lt hm]
  | completeUpdateCycle => simp [encode]
  | tcHandler m =>
    have hm : m < 256 := of_decide_eq_true hwf
    simp [encode, Nat.mod_eq_of_lt hm]

/-! ### The opcode table's masks -/

theorem covers_encode (i : Instr) : (opcodeRow i).covers (encode i) = true := by
  cases i with
  | configure m v => exact Laws.EncodingHasRowBits.configure m v
  | encode m th => exact Laws.EncodingHasRowBits.encode m th
  | completeUpdateCycle => exact Laws.EncodingHasRowBits.completeUpdateCycle
  | tcHandler m => exact Laws.EncodingHasRowBits.tcHandler m

theorem covers_of_decode_eq_ok {w : Word} {i : Instr} (h : decode w = .ok i) : (opcodeRow i).covers w = true :=
  encode_of_decode_eq_ok h ▸ covers_encode i

/-- A field whose bits a mask keeps is the field of the masked word. -/
theorem extractLsb'_of_and_eq {w mask pattern : Word} (h : w &&& mask = pattern) (start len : Nat)
    (hmask : mask.extractLsb' start len = BitVec.allOnes len) :
    w.extractLsb' start len = pattern.extractLsb' start len := by
  rw [← h, BitVec.extractLsb'_and, hmask, BitVec.and_allOnes]

/-- The words that decode, by their fields (30_encoding.md R89). -/
theorem exists_decode_eq_ok_iff {w : Word} : (∃ i, decode w = .ok i) ↔ reservedField w = 0#4 ∧
    (opField w = 1#4 ∧ w.extractLsb' 1 15 = 0#15 ∨ opField w = 2#4 ∨
      opField w = 3#4 ∧ motorField w = 0#8 ∧ immField w = 0#16 ∨ opField w = 4#4 ∧ immField w = 0#16) := by
  have himm : (immField w).extractLsb' 1 15 = w.extractLsb' 1 15 := BitVec.extractLsb'_extractLsb'_of_le (by decide)
  simp [decode_eq_ok_iff, himm, exists_or, and_assoc]

/-- The words that decode, by the opcode table's match and mask pairs (30_encoding.md R89). -/
theorem exists_decode_eq_ok_iff_masks {w : Word} : (∃ i, decode w = .ok i) ↔
    w &&& 0xFF00FFFE#32 = 0x10000000#32 ∨ w &&& 0xFF000000#32 = 0x20000000#32 ∨
      w &&& 0xFFFFFFFF#32 = 0x30000000#32 ∨ w &&& 0xFF00FFFF#32 = 0x40000000#32 := by
  constructor
  · rintro ⟨i, hi⟩
    have hrow := of_decide_eq_true (covers_of_decode_eq_ok hi)
    cases i with
    | configure m v => exact .inl hrow
    | encode m th => exact .inr (.inl hrow)
    | completeUpdateCycle => exact .inr (.inr (.inl hrow))
    | tcHandler m => exact .inr (.inr (.inr hrow))
  · rw [exists_decode_eq_ok_iff]
    rintro (h | h | h | h)
    · exact ⟨extractLsb'_of_and_eq h 24 4 rfl, .inl ⟨extractLsb'_of_and_eq h 28 4 rfl,
        extractLsb'_of_and_eq h 1 15 rfl⟩⟩
    · exact ⟨extractLsb'_of_and_eq h 24 4 rfl, .inr (.inl (extractLsb'_of_and_eq h 28 4 rfl))⟩
    · exact ⟨extractLsb'_of_and_eq h 24 4 rfl, .inr (.inr (.inl ⟨extractLsb'_of_and_eq h 28 4 rfl,
        extractLsb'_of_and_eq h 16 8 rfl, extractLsb'_of_and_eq h 0 16 rfl⟩))⟩
    · exact ⟨extractLsb'_of_and_eq h 24 4 rfl, .inr (.inr (.inr ⟨extractLsb'_of_and_eq h 28 4 rfl,
        extractLsb'_of_and_eq h 0 16 rfl⟩))⟩

/-- Settles O4: each word is the encoding of its command, bit for bit. -/
theorem writtenOutWordsDecode : Obligations.WrittenOutWordsDecode :=
  ⟨decodeOfEncodeIsTheCommand (.configure 0 .standard) rfl, decodeOfEncodeIsTheCommand (.configure 255 .fast) rfl,
    decodeOfEncodeIsTheCommand (.encode 0 1500#16) rfl, decodeOfEncodeIsTheCommand (.encode 1 65535#16) rfl,
    decodeOfEncodeIsTheCommand .completeUpdateCycle rfl, decodeOfEncodeIsTheCommand (.tcHandler 3) rfl⟩

end Sys2Proof

namespace Sys2Proof.Machine

/-! ### Executing a word that is ILLEGAL -/

theorem State.runWord_of_decode_error {s : State} {w : Word} {e : Illegal} (h : decode w = .error e) :
    s.runWord w = .next (s.raiseFault ⟨.illegalCommand, none, .word w⟩) := by
  simp [State.runWord, h, State.faulting]

/-- Settles O3: the fields and the masks describe the same words, and every other word is an error of the decoder. -/
theorem decodeFollowsTheOpcodeTable : Obligations.DecodeFollowsTheOpcodeTable := by
  refine ⟨fun _ => exists_decode_eq_ok_iff, fun _ _ => covers_of_decode_eq_ok, fun _ => exists_decode_eq_ok_iff_masks,
    fun w s hbad => ?_⟩
  cases h : decode w with
  | ok i => exact absurd ⟨i, h⟩ hbad
  | error e => exact State.runWord_of_decode_error h

/-- Raising a fault records it, moves past the command and leaves every other field (60_exceptions.md R220 a to c). -/
theorem State.raisedFault_raiseFault (s : State) (f : FaultRecord) : RaisedFault f s (s.raiseFault f) where
  setting := s.sameSetting_raiseFault f
  past := s.raiseFault_cpu f
  units := ⟨fun _ => rfl, fun _ => rfl⟩
  rest := ⟨s.raiseFault_reg f, fun _ => rfl⟩
  memory := fun _ => rfl
  recorded := s.raiseFault_fault f

/-- In a machine that may run, the step is the scripted turn's. -/
theorem TakesTurn.step_eq {s : State} {turn : Turn} {rest : List Turn} (h : TakesTurn s turn rest) :
    step s = { s with sched := rest }.runTurn turn := by
  simp [step, State.motorCountLegal, h.motor_count, h.no_fault, State.takeTurn_cons h.turn]

/-- In the main context the CPU's turn runs the word at `CPU.hpc` (10_state.md R22). -/
theorem State.hostTurn_eq_runWord {s : State} {w : Word} (hmain : s.cpu.saved = none)
    (hword : s.prog[s.cpu.hpc]? = some w) : s.hostTurn = s.runWord w := by
  simp [State.hostTurn, State.inMain, hmain, State.hostWord, hword]

/-- Settles O6: the CPU's turn runs the word, which raises code 10. -/
theorem illegalWordRaisesCodeTen : Obligations.IllegalWordRaisesCodeTen := by
  intro s w e rest hturn hmain hword hbad
  have hstep : step s = { s with sched := rest }.runWord w := hturn.step_eq.trans (State.hostTurn_eq_runWord hmain hword)
  exact ⟨_, hstep.trans (State.runWord_of_decode_error hbad), State.raisedFault_raiseFault _ _⟩

end Sys2Proof.Machine
end

section
/-! SUPPORT. The frame as the concatenation of its fields (30_encoding.md R80, 40_encoder.md R112, R117). -/

namespace Sys2Proof.Machine

theorem f12_eq_append (p : BitVec 11) (t : Bool) : f12 p t = p ++ BitVec.ofBool t := by
  simpa [f12] using (BitVec.setWidth_append_eq_shiftLeft_setWidth_or (b := p) (b' := BitVec.ofBool t) (w'' := 12)).symm

theorem frameOfPayload_eq_append (p : BitVec 11) (t : Bool) : frameOfPayload p t = f12 p t ++ checksum (f12 p t) := by
  simpa [frameOfPayload] using
    (BitVec.setWidth_append_eq_shiftLeft_setWidth_or (b := f12 p t) (b' := checksum (f12 p t)) (w'' := 16)).symm

section
variable (th : Half) (t : Bool)

/-- Frame bits 15:4 are `F12`. -/
theorem frameT_f12 : (frameT th t).extractLsb' 4 12 = f12 (payload th) t := by
  rw [frameT, frameOfPayload_eq_append]
  exact BitVec.extractLsb'_append_eq_left

/-- Frame bits 3:0 are the checksum of `F12`. -/
theorem frameT_checksum : (frameT th t).extractLsb' 0 4 = checksum (f12 (payload th) t) := by
  rw [frameT, frameOfPayload_eq_append]
  exact BitVec.extractLsb'_append_eq_right

/-- Frame bits 15:5 are the payload. -/
theorem frameT_payload : (frameT th t).extractLsb' 5 11 = payload th := by
  rw [frameT, frameOfPayload_eq_append, f12_eq_append, BitVec.extractLsb'_append_eq_of_le (by decide)]
  exact BitVec.extractLsb'_append_eq_left

/-- Frame bit 4 is the telemetry bit. -/
theorem frameT_telemetry : (frameT th t).getLsbD 4 = t := by
  rw [frameT, frameOfPayload_eq_append, f12_eq_append, BitVec.getLsbD_append, if_neg (by decide), BitVec.getLsbD_append,
    if_pos (by decide)]
  exact BitVec.getLsbD_ofBool t 0

/-- The frame's low nibble is the XOR of its other three (40_encoder.md R114). -/
theorem frameT_nibbles : (frameT th t).extractLsb' 0 4 =
    (frameT th t).extractLsb' 12 4 ^^^ (frameT th t).extractLsb' 8 4 ^^^ (frameT th t).extractLsb' 4 4 := by
  rw [frameT_checksum, checksum, frameT, frameOfPayload_eq_append, BitVec.extractLsb'_append_eq_of_le (by decide),
    BitVec.extractLsb'_append_eq_of_le (by decide), BitVec.extractLsb'_append_eq_of_le (by decide)]

end

/-- Settles O19: the fields of a frame of either telemetry bit, at the bit 0 that ENCODE sends (40_encoder.md R113). -/
theorem frameFields : Obligations.FrameFields := fun th =>
  ⟨frameT_payload th false, frameT_telemetry th false, frameT_f12 th false, frameT_nibbles th false⟩

end Sys2Proof.Machine
end

section
/-! SUPPORT. VALUE, PAYLOAD, F12, CHECKSUM and TICKS as arithmetic and bits (40_encoder.md §1). -/

namespace Sys2Proof.Machine

/-! ### VALUE and PAYLOAD -/

section
variable {th : Half}

/-- VALUE clips to 0 up to 1000 (40_encoder.md R110). -/
theorem value_of_le (h : th.toNat ≤ 1000) : value th = 0#16 := if_pos h

/-- VALUE above 1000: twice the excess plus 48, in 16 bits (40_encoder.md R110). -/
theorem toNat_value_of_lt (h : 1000 < th.toNat) : (value th).toNat = ((th.toNat - 1000) * 2 + 48) % 65536 := by
  have habove : ¬ th.toNat ≤ Config.disarmMax := Nat.not_le.mpr h
  rw [value, if_neg habove, BitVec.toNat_ofNat]
  rfl

/-- Settles O15: the two branches of VALUE, and its corner cases by evaluation. -/
theorem valueOfThrottle : Obligations.ValueOfThrottle :=
  ⟨fun _ => value_of_le, fun _ => toNat_value_of_lt, by decide, by decide, by decide, by decide⟩

theorem payload_of_le (h : th.toNat ≤ 1000) : payload th = 0#11 := by
  rw [payload, value_of_le h]
  rfl

/-- PAYLOAD above 1000 is VALUE's exact arithmetic in 11 bits: the cut to 16 bits is lost in the cut to 11
(40_encoder.md R111). -/
theorem toNat_payload_of_lt (h : 1000 < th.toNat) : (payload th).toNat = ((th.toNat - 1000) * 2 + 48) % 2048 := by
  rw [payload, BitVec.extractLsb'_toNat, toNat_value_of_lt h, Nat.shiftRight_zero]
  exact Nat.mod_mod_of_dvd _ (by decide)

theorem toNat_payload_even (th : Half) : (payload th).toNat % 2 = 0 := by
  rcases le_or_gt th.toNat 1000 with hle | hlt
  · rw [payload_of_le hle]
    rfl
  · have := toNat_payload_of_lt hlt
    omega

theorem toNat_payload_succ (hlo : 1001 ≤ th.toNat) (hhi : th.toNat < 1999) :
    (payload (th + 1#16)).toNat = (payload th).toNat + 2 := by
  have hsucc : (th + 1#16).toNat = th.toNat + 1 := by bv_omega
  rw [toNat_payload_of_lt hlo, toNat_payload_of_lt (by omega), hsucc]
  omega

theorem toNat_payload_wrapped (hlo : 2000 ≤ th.toNat) (hhi : th.toNat ≤ 2024) :
    (payload th).toNat = (th.toNat - 2000) * 2 := by
  rw [toNat_payload_of_lt (by omega)]
  omega

/-- 1024 throttles are 2048 steps of VALUE, a whole turn of the 11 bits, as long as both throttles are above 1000. -/
theorem payload_sub_period (h : 2025 ≤ th.toNat) : payload th = payload (th - 1024#16) := by
  have hsub : (th - 1024#16).toNat = th.toNat - 1024 := by bv_omega
  apply BitVec.eq_of_toNat_eq
  rw [toNat_payload_of_lt (by omega), toNat_payload_of_lt (by omega), hsub]
  omega

/-- A throttle whose payload is the even value `p`: the `p / 2`-th of the period 1001..2024, counted round from 2000, where
the payload is 0. -/
def throttleOfPayload (p : BitVec 11) : Half := BitVec.ofNat 16 (1001 + (p.toNat / 2 + 999) % 1024)

theorem toNat_throttleOfPayload (p : BitVec 11) :
    (throttleOfPayload p).toNat = 1001 + (p.toNat / 2 + 999) % 1024 := by
  rw [throttleOfPayload, BitVec.toNat_ofNat]
  omega

theorem payload_throttleOfPayload {p : BitVec 11} (heven : p.toNat % 2 = 0) : payload (throttleOfPayload p) = p := by
  have hth := toNat_throttleOfPayload p
  have habove : 1000 < (throttleOfPayload p).toNat := by omega
  apply BitVec.eq_of_toNat_eq
  rw [toNat_payload_of_lt habove, hth]
  omega

theorem exists_payload_eq_iff (p : BitVec 11) : (∃ th, payload th = p) ↔ p.toNat % 2 = 0 := by
  constructor
  · rintro ⟨th, rfl⟩
    exact toNat_payload_even th
  · exact fun heven => ⟨throttleOfPayload p, payload_throttleOfPayload heven⟩

theorem le_of_payload_eq_48 (h : payload th = 48#11) : 2024 ≤ th.toNat := by
  rcases le_or_gt th.toNat 1000 with hle | hlt
  · rw [payload_of_le hle] at h
    exact absurd h (by decide)
  · have hval := toNat_payload_of_lt hlt
    rw [h] at hval
    have : (48#11).toNat = 48 := rfl
    omega

end

/-- Settles O16: PAYLOAD on each range of throttles, and its values. -/
theorem payloadClipsRisesAndWraps : Obligations.PayloadClipsRisesAndWraps :=
  ⟨fun _ => payload_of_le, by decide, by decide, fun _ => toNat_payload_succ, fun _ => toNat_payload_wrapped,
    fun _ => payload_sub_period, exists_payload_eq_iff, fun _ => le_of_payload_eq_48⟩

/-! ### F12 and CHECKSUM -/

/-- F12 bits 11:1 are the payload (40_encoder.md R112). -/
theorem f12_payload (p : BitVec 11) (t : Bool) : (f12 p t).extractLsb' 1 11 = p := by
  rw [f12_eq_append]
  exact BitVec.extractLsb'_append_eq_left

/-- F12 bit 0 is the telemetry bit (40_encoder.md R112). -/
theorem f12_telemetry (p : BitVec 11) (t : Bool) : (f12 p t).getLsbD 0 = t := by
  rw [f12_eq_append, BitVec.getLsbD_append, if_pos (by decide)]
  exact BitVec.getLsbD_ofBool t 0

/-- The bit form of the checksum (40_encoder.md R114). -/
theorem checksum_getLsbD (f : BitVec 12) {i : Nat} (hi : i < 4) :
    (checksum f).getLsbD i = (f.getLsbD (i + 8) ^^ f.getLsbD (i + 4) ^^ f.getLsbD i) := by
  simp [checksum, hi, Nat.add_comm]

/-- Settles O17: F12 and CHECKSUM, field by field and bit by bit. -/
theorem checksumBitByBit : Obligations.ChecksumBitByBit :=
  ⟨fun p t => ⟨f12_payload p t, f12_telemetry p t⟩, fun _ => rfl, fun f _ => checksum_getLsbD f⟩

/-! ### TICKS -/

theorem tick_eq_ite (fr : Half) (j : Nat) : tick fr j = if fr.getLsbD (15 - j) = true then 29#8 else 14#8 := rfl

theorem tick_eq_29_iff (fr : Half) (j : Nat) : tick fr j = 29#8 ↔ fr.getLsbD (15 - j) = true := by
  rw [tick_eq_ite]
  split_ifs with hbit <;> simp [hbit]

@[simp] theorem length_ticks (fr : Half) : (ticks fr).length = 16 := by simp [ticks, Config.bufLen]

theorem getElem?_ticks (fr : Half) {j : Nat} (hj : j < 16) : (ticks fr)[j]? = some (tick fr j) := by
  simp [ticks, Config.bufLen, hj]

/-- The buffer sends the frame's bits from 15 down to 0, and reversing the order of bits keeps how many are 1. -/
theorem count_29_ticks (fr : Half) : (ticks fr).count 29#8 = ((List.range 16).filter fun k => fr.getLsbD k).length := by
  have hreverse : (List.range 16).reverse = (List.range 16).map (15 - ·) := by decide
  calc (ticks fr).count 29#8
      = (List.range 16).countP (fun j => fr.getLsbD (15 - j)) := by
        rw [ticks, List.count, List.countP_map]
        exact List.countP_congr fun j _ => by simp [tick_eq_29_iff]
    _ = (List.range 16).reverse.countP (fun k => fr.getLsbD k) := by
        rw [hreverse, List.countP_map]
        rfl
    _ = ((List.range 16).filter fun k => fr.getLsbD k).length := by
        rw [List.countP_reverse, List.countP_eq_length_filter]

/-- Settles O20: the 16 entries of TICKS and how many are 29 (40_encoder.md R118). -/
theorem tickBufferFollowsTheFrame : Obligations.TickBufferFollowsTheFrame := fun fr =>
  ⟨length_ticks fr, fun _ hj => getElem?_ticks fr hj, count_29_ticks fr⟩

end Sys2Proof.Machine
end

section
/-! SUPPORT. ENCODE: its four outcomes, and what arming a motor leaves in the state (40_encoder.md R116). -/

namespace Sys2Proof.Machine

section
variable {s : State} {m : Nat} (th : Half)

/-! ### The outcomes -/

theorem exec_encode_out_of_range (hm : ¬ m < s.nm) :
    exec (.encode m th) s = .next (s.raiseFault ⟨.badMotorIndex, some m, .motorIndex .motorField⟩) := if_pos hm

theorem exec_encode_unconfigured (hm : m < s.nm) (hfree : (s.motor m).chan.bound = none) :
    exec (.encode m th) s = .next (s.raiseFault ⟨.notConfigured, some m, .motorChannel⟩) := by
  simp [exec, execEncode, hm, hfree, State.faulting]

theorem exec_encode_enabled {bd : Bound} (hm : m < s.nm) (hbound : (s.motor m).chan.bound = some bd)
    (hen : (s.motor m).dma.en = true) :
    exec (.encode m th) s = .next (s.raiseFault ⟨.encodeWhileStreamEnabled, some m, .stream bd.stream⟩) := by
  simp [exec, execEncode, hm, hbound, hen, State.faulting]

theorem exec_encode_ready {bd : Bound} (hm : m < s.nm) (hbound : (s.motor m).chan.bound = some bd)
    (hoff : (s.motor m).dma.en = false) : exec (.encode m th) s = .next (s.encodeMotor m th) := by
  simp [exec, execEncode, hm, hbound, hoff]

/-! ### The armed motor -/

theorem State.encodeMotor_motor_self (hm : m < s.nm) : (s.encodeMotor m th).motor m =
    { (s.motor m) with chan := { (s.motor m).chan with last := some th }, dma := (s.motor m).dma.armed } := by
  rw [State.encodeMotor_motor, if_pos ⟨rfl, hm⟩]

theorem State.encodeMotor_motor_other {n : Nat} (hn : n ≠ m) : (s.encodeMotor m th).motor n = s.motor n := by
  rw [State.encodeMotor_motor, if_neg fun h => hn h.1]

theorem State.readTick_encodeMotor {n k : Nat} (hk : k < 16) :
    (s.encodeMotor m th).readTick n k = if n = m then some (tick (frame th) k) else s.readTick n k := by
  have hmem : (s.encodeMotor m th).readTick n k = (s.writeTicks m (frame th) Config.bufLen).readTick n k := by
    rw [State.readTick, State.readTick, State.encodeMotor_mem]
  rw [hmem, State.readTick_writeTicks s m (frame th) hk]

/-- The bytes outside the motor's buffer are as before. -/
theorem State.encodeMotor_mem_other {a : Nat} (ha : ∀ j, j < 16 → a ≠ bufAddr m j) :
    (s.encodeMotor m th).mem.read a = s.mem.read a := by
  rw [State.encodeMotor_mem, State.read_writeTicks, if_neg]
  rintro ⟨hlo, hhi⟩
  have hentry : a = bufAddr m (a - bufAddr m 0) := by
    unfold bufAddr at hlo ⊢
    omega
  exact ha (a - bufAddr m 0) (Nat.sub_lt_left_of_lt_add hlo hhi) hentry

end

/-! ### The disarm throttles -/

theorem frame_of_payload_eq_zero {th : Half} (h : payload th = 0#11) : frame th = 0#16 := by
  rw [frame, frameT, h]
  rfl

/-- The throttles up to 1000 and the wrap at 2000 send payload 0, hence the all-zero frame (40_encoder.md R116). -/
theorem frame_of_disarm {th : Half} (h : th.toNat ≤ 1000 ∨ th = 2000#16) : frame th = 0#16 := by
  rcases h with hle | rfl
  · exact frame_of_payload_eq_zero (payload_of_le hle)
  · rfl

/-- Settles O21: the three checks, the armed motor with its frame, the disarm throttles and R116's example. -/
theorem encodeChecksThenArmsTheMotor : Obligations.EncodeChecksThenArmsTheMotor := by
  intro s m th
  refine ⟨exec_encode_out_of_range th, exec_encode_unconfigured th, fun _ => exec_encode_enabled th,
    fun bd hm hbound hoff => ⟨s.encodeMotor m th, exec_encode_ready th hm hbound hoff, s.sameSetting_encodeMotor m th,
      s.encodeMotor_cpu m th, ⟨s.encodeMotor_reg m th, fun p => ?_⟩, s.encodeMotor_fault m th,
      fun _ => State.encodeMotor_motor_other th, State.group_eq (s.encodeMotor_groups m th),
      State.encodeMotor_motor_self th hm, fun j hj => ?_, fun _ => State.encodeMotor_mem_other th⟩,
    frame_of_disarm, by decide⟩
  · rw [State.pin, State.encodeMotor_pins, State.pin]
  · rw [State.readTick_encodeMotor th hj, if_pos rfl, tick_eq_ite]

end Sys2Proof.Machine
end

section
/-! SUPPORT. GET_OR_CREATE names the first index of an identity, and names it again (41_timer_registry.md R140, R143). -/

namespace Sys2Proof.Machine

section
variable {nt i : Nat} {ids : List TimerId} {t : TimerId}

/-- The search is the library's. -/
theorem timerIndex_eq_findIdx? : timerIndex ids t = ids.findIdx? (· = t) := by
  induction ids with
  | nil => rfl
  | cons a rest ih => simp [timerIndex, List.findIdx?_cons, ih]

theorem timerIndex_eq_some_iff :
    timerIndex ids t = some i ↔ ids[i]? = some t ∧ ∀ k, k < i → ids[k]? ≠ some t := by
  rw [timerIndex_eq_findIdx?, List.findIdx?_eq_some_iff_getElem, List.getElem?_eq_some_iff, ← exists_and_right]
  refine exists_congr fun hi => and_congr (by simp) (forall₂_congr fun k hk => ?_)
  simp [List.getElem?_eq_getElem (hk.trans hi)]

/-- A new identity is found where it is appended. -/
theorem timerIndex_append_new (hnew : t ∉ ids) : timerIndex (ids ++ [t]) t = some ids.length := by
  refine timerIndex_eq_some_iff.2 ⟨by simp, fun k hk hat => hnew ?_⟩
  rw [List.getElem?_append_left hk] at hat
  exact List.mem_of_getElem? hat

/-- GET_OR_CREATE answers an entry that is there exactly when the search finds it (41_timer_registry.md R140). -/
theorem getOrCreate_eq_found_iff : getOrCreate nt ids t = some ⟨i, false, ids⟩ ↔ timerIndex ids t = some i := by
  unfold getOrCreate
  split
  · next hfound => simp [hfound]
  · next hnone => split_ifs <;> simp [hnone]

end

/-- Settles O27: an identity found is answered where it is first; a new one is appended, and found there by the next
call. -/
theorem getOrCreateLaws : Obligations.GetOrCreateLaws := by
  intro nt ids t
  refine ⟨getOrCreate_none, fun r h => ?_⟩
  obtain ⟨i, hat, -, rfl⟩ | ⟨hnew, -, rfl⟩ := getOrCreate_cases h
  · obtain ⟨-, hfirst⟩ := timerIndex_eq_some_iff.1 (getOrCreate_eq_found_iff.1 h)
    have hknown : t ∈ ids := List.mem_of_getElem? hat
    exact ⟨hat, by simp [hknown], nofun, fun _ => rfl, hfirst, h, id⟩
  · have hagain := getOrCreate_eq_found_iff (nt := nt).2 (timerIndex_append_new hnew)
    exact ⟨by simp, by simp [hnew], fun _ => ⟨rfl, rfl⟩, nofun, fun k _ hk => hnew (List.mem_of_getElem? hk), hagain,
      fun hdistinct => by simpa using hdistinct.concat hnew⟩

end Sys2Proof.Machine
end

section
/-! SUPPORT. The prescaler as exact division (42_configurator.md R155). -/

namespace Sys2Proof.Machine

theorem Config.tickRate_pos (v : Variant) : 0 < Config.tickRate v := by cases v <;> decide

/-- A divisor's quotients in 1..65536, each less one, are the 16-bit prescalers. -/
theorem quotient_sub_one_eq_iff {n d : Nat} (hd : 0 < d) (psc : Half) :
    (n % d = 0 ∧ 1 ≤ n / d ∧ n / d ≤ 65536) ∧ BitVec.ofNat 16 (n / d - 1) = psc ↔ n = d * (psc.toNat + 1) := by
  constructor
  · rintro ⟨⟨hexact, hlow, hhigh⟩, rfl⟩
    have hpsc : (BitVec.ofNat 16 (n / d - 1)).toNat + 1 = n / d := by
      rw [BitVec.toNat_ofNat]
      omega
    rw [hpsc, Nat.mul_div_cancel' (Nat.dvd_of_mod_eq_zero hexact)]
  · rintro rfl
    have hpsc : psc.toNat < 65536 := psc.isLt
    rw [Nat.mul_mod_right, Nat.mul_div_cancel_left _ hd]
    exact ⟨⟨rfl, by omega, by omega⟩, by simp⟩

/-- Settles O26: exact division by `CLKDIV × TICK_RATE`, and the two rates by definition. -/
theorem prescalerGivesTheTickRate : Obligations.PrescalerGivesTheTickRate := by
  refine ⟨fun p t v psc hdiv => ?_, rfl, rfl⟩
  rw [← quotient_sub_one_eq_iff (Nat.mul_pos hdiv (Config.tickRate_pos v))]
  simp [prescaler]

end Sys2Proof.Machine
end

section
/-! SUPPORT. CONFIGURE: its checks, each with what it answers, and the effects once they pass (42_configurator.md R150). -/

namespace Sys2Proof.Machine

/-! ### Channel selectors -/

@[simp] theorem Channel.ofSelector_selector (c : Channel) : Channel.ofSelector c.selector = some c := by
  cases c <;> rfl

theorem Channel.ofSelector_eq_none {n : Nat} (h : ¬(1 ≤ n ∧ n ≤ 4)) : Channel.ofSelector n = none := by
  unfold Channel.ofSelector
  split
  case h_5 => rfl
  all_goals omega

/-! ### The checks for codes 1, 9 and 8 -/

section
variable {s : State} {m : Nat} {b : Binding} {c : Channel}

theorem State.exists_motor_of_mem {u : Motor} (h : u ∈ s.motors) : ∃ n, n < s.nm ∧ s.motor n = u := by
  obtain ⟨n, hn, rfl⟩ := List.mem_iff_getElem.1 h
  exact ⟨n, hn, by simp [State.motor, hn]⟩

theorem State.streamTaken_eq_false {st : StreamId}
    (h : ∀ n bd, n < s.nm → (s.motor n).chan.bound = some bd → bd.stream ≠ st) : s.streamTaken st = false := by
  refine List.any_eq_false.2 fun u hu => ?_
  obtain ⟨n, hn, rfl⟩ := State.exists_motor_of_mem hu
  split
  · next bd hbound => simpa using h n bd hn hbound
  · exact Bool.false_ne_true

theorem State.channelTaken_eq_false {t : TimerId}
    (h : ∀ n bd, n < s.nm → (s.motor n).chan.bound = some bd → ¬(s.reg[bd.grp]? = some t ∧ bd.ch = c)) :
    s.channelTaken t c = false := by
  refine List.any_eq_false.2 fun u hu => ?_
  obtain ⟨n, hn, rfl⟩ := State.exists_motor_of_mem hu
  split
  · next bd hbound => simpa using h n bd hn hbound
  · exact Bool.false_ne_true

/-- Where every configured motor's group is registered, the read for code 8 meets no code 11 (60_exceptions.md R222). -/
theorem State.unregisteredMotor_eq_none
    (h : ∀ n bd, n < s.nm → (s.motor n).chan.bound = some bd → bd.grp < s.reg.length) : s.unregisteredMotor = none := by
  refine List.find?_eq_none.2 fun n hn hunregistered => ?_
  unfold State.unregistered at hunregistered
  split at hunregistered
  · next bd hbound =>
    have hgrp := h n bd (List.mem_range.1 hn) hbound
    simp [hgrp] at hunregistered
  · cases hunregistered

theorem State.bindingConflict_pin (hpin : (s.pin b.pin).owner ≠ .none) :
    s.bindingConflict m b c = some ⟨.pinAlreadyOwned, some m, .pin b.pin⟩ := if_pos hpin

theorem State.bindingConflict_stream (hpin : (s.pin b.pin).owner = .none) (hstream : s.streamTaken b.stream = true) :
    s.bindingConflict m b c = some ⟨.streamConflict, some m, .stream b.stream⟩ := by
  simp [State.bindingConflict, hpin, hstream]

/-- With the pin and the stream free and no read of code 11, the check for code 8 is left. -/
theorem State.bindingConflict_channel (hpin : (s.pin b.pin).owner = .none) (hstream : s.streamTaken b.stream = false)
    (hregistered : s.unregisteredMotor = none) :
    s.bindingConflict m b c =
      if s.channelTaken b.timerId c then some ⟨.channelConflict, some m, .timerChannel b.timerId c⟩ else none := by
  simp [State.bindingConflict, hpin, hstream, hregistered]

/-- The checks the statements speak of are the ones CONFIGURE makes. -/
theorem ConfigureReady.admitted (h : ConfigureReady s m b c) : ConfigureAdmitted s m b c where
  in_range := h.in_range
  unbound := h.unconfigured
  binding := h.binding
  selector := by rw [h.selector, Channel.ofSelector_selector]
  no_conflict := by
    rw [State.bindingConflict_channel h.pin_free (State.streamTaken_eq_false h.stream_free)
      (State.unregisteredMotor_eq_none h.registered), State.channelTaken_eq_false h.channel_free]
    rfl

/-! ### What CONFIGURE answers -/

variable (v : Variant)

theorem exec_configure_out_of_range (hm : ¬ m < s.nm) :
    exec (.configure m v) s = .next (s.raiseFault ⟨.badMotorIndex, some m, .motorIndex .motorField⟩) := if_pos hm

theorem exec_configure_configured {bd : Bound} (hm : m < s.nm) (hbound : (s.motor m).chan.bound = some bd) :
    exec (.configure m v) s = .next (s.raiseFault ⟨.alreadyConfigured, some m, .motorChannel⟩) := by
  simp [exec, execConfigure, hm, MotorChannel.cfg, hbound, State.faulting]

theorem exec_configure_no_binding (hm : m < s.nm) (hfree : (s.motor m).chan.bound = none)
    (hrow : platBinding s.plat m = none) : exec (.configure m v) s = .refused (.noBinding m) := by
  simp [exec, execConfigure, hm, MotorChannel.cfg, hfree, hrow]

section
variable (hm : m < s.nm) (hfree : (s.motor m).chan.bound = none) (hrow : platBinding s.plat m = some b)
include hm hfree hrow

theorem exec_configure_unsupported (hsel : Channel.ofSelector b.channel = none) :
    exec (.configure m v) s = .next (s.raiseFault ⟨.unsupportedChannel, some m, .selector b.channel⟩) := by
  simp [exec, execConfigure, hm, MotorChannel.cfg, hfree, hrow, hsel, State.faulting]

theorem exec_configure_conflict (hsel : b.channel = c.selector) {f : FaultRecord}
    (hconflict : s.bindingConflict m b c = some f) : exec (.configure m v) s = .next (s.raiseFault f) := by
  simp [exec, execConfigure, hm, MotorChannel.cfg, hfree, hrow, hsel, hconflict]

end

namespace ConfigureAdmitted

variable (adm : ConfigureAdmitted s m b c)
include adm

theorem exec_registry_full (hget : getOrCreate s.nt s.reg b.timerId = none) :
    exec (.configure m v) s = .next (s.raiseFault ⟨.registryCapacityExceeded, some m, .timer b.timerId⟩) := by
  simp [exec, execConfigure, adm.in_range, MotorChannel.cfg, adm.unbound, adm.binding, adm.selector, adm.no_conflict, hget,
    State.faulting]

theorem exec_eq_configureFrom {r : Lookup} (hget : getOrCreate s.nt s.reg b.timerId = some r) :
    exec (.configure m v) s = s.configureFrom m v b c r := by
  simp [exec, execConfigure, adm.in_range, MotorChannel.cfg, adm.unbound, adm.binding, adm.selector, adm.no_conflict, hget]

end ConfigureAdmitted

end

/-! ### The registry's answer -/

theorem getOrCreate_new {nt : Nat} {ids : List TimerId} {t : TimerId} (hnew : t ∉ ids) (hroom : ids.length < nt) :
    getOrCreate nt ids t = some ⟨ids.length, true, ids ++ [t]⟩ := by
  simp [getOrCreate, timerIndex_none.2 hnew, hroom]

/-- In a registry without repetitions an identity is found at its one index. -/
theorem getOrCreate_known {nt i : Nat} {ids : List TimerId} {t : TimerId} (hdistinct : ids.Nodup)
    (hat : ids[i]? = some t) : getOrCreate nt ids t = some ⟨i, false, ids⟩ := by
  refine getOrCreate_eq_found_iff.2 (timerIndex_eq_some_iff.2 ⟨hat, fun k hk hkt => hk.ne ?_⟩)
  have hlen : k < ids.length := (List.getElem?_eq_some_iff.1 hkt).1
  exact (List.getElem?_inj hlen hdistinct).1 (hkt.trans hat.symm)

/-! ### The checks and the refusals, settled -/

/-- Settles O23: each check, with the earlier ones passed, answers its record. -/
theorem configureReportsTheFirstFailedCheck : Obligations.ConfigureReportsTheFirstFailedCheck := by
  intro s m v
  refine ⟨exec_configure_out_of_range v, fun _ => exec_configure_configured v, fun b hm hfree hrow =>
    ⟨fun hsel => exec_configure_unsupported v hm hfree hrow (Channel.ofSelector_eq_none hsel), fun c hsel =>
      ⟨fun hpin => ?_, fun n bd hpin _ hbound hstream => ?_, fun n bd hpin hothers _ hbound htimer hch => ?_,
        fun hready hnew hfull => ?_⟩⟩⟩
  · exact exec_configure_conflict v hm hfree hrow hsel (State.bindingConflict_pin hpin)
  · have htaken : s.streamTaken b.stream = true := hstream ▸ State.streamTaken_of_bound hbound
    exact exec_configure_conflict v hm hfree hrow hsel (State.bindingConflict_stream hpin htaken)
  · have hstream := State.streamTaken_eq_false fun k bk hk hb => (hothers k bk hk hb).1
    have hregistered := State.unregisteredMotor_eq_none fun k bk hk hb => (hothers k bk hk hb).2
    have htaken : s.channelTaken b.timerId c = true := hch ▸ State.channelTaken_of_bound hbound htimer
    refine exec_configure_conflict v hm hfree hrow hsel ?_
    rw [State.bindingConflict_channel hpin hstream hregistered, if_pos htaken]
  · exact hready.admitted.exec_registry_full v (getOrCreate_none.2 ⟨hnew, hfull⟩)

/-- Settles O9: CONFIGURE meets no prescaler when it would start a new timer, `NM` is the step's first test, and the row of the
resource table is CONFIGURE's first read after codes 4 and 5. -/
theorem runsWithoutMeaningAreRefused : Obligations.RunsWithoutMeaningAreRefused := by
  refine ⟨fun s m v b c hready hnew hroom hnone => ?_, fun s hnm => ?_, fun s m v => exec_configure_no_binding v⟩
  · rw [hready.admitted.exec_eq_configureFrom v (getOrCreate_new hnew hroom)]
    simp [State.configureFrom, hnone]
  · have hillegal : ¬ s.motorCountLegal = true := by simpa [State.motorCountLegal] using hnm
    exact if_neg hillegal

/-! ### The effects -/

/-- TIMEBASE and the start leave the channels (R154, R156 b). -/
theorem Group.chans_start_timeBase (g : Group) (t : TimerId) (v : Variant) (psc : Half) :
    ((g.timeBase t v psc).start).chans = g.chans := rfl

theorem Group.chan_addChannel_same (g : Group) (c : Channel) :
    (g.addChannel c).chan c = ⟨true, true, .pwm, true, 0#16, 0#16, (g.chan c).out⟩ :=
  Group.chan_setChan_same g c _

theorem Group.chan_addChannel_other (g : Group) {c d : Channel} (hd : d ≠ c) : (g.addChannel c).chan d = g.chan d :=
  Group.chan_setChan_other g _ hd

theorem State.bindMotor_group_self {s : State} {m : Nat} {b : Binding} {c : Channel} {i : Nat} {g : Group}
    {ids : List TimerId} (hi : i < s.nt) : (s.bindMotor m b c i g ids).group i = g.addChannel c := by
  rw [State.bindMotor_group, if_pos ⟨rfl, hi⟩]

/-- The effects that the first and a later motor of a timer have in common: the group may differ in its time base, not in its
channels. -/
theorem State.motorConfigured_bindMotor {s : State} {m : Nat} {b : Binding} {c : Channel} {i : Nat} {g : Group}
    (hm : m < s.nm) (hi : i < s.nt) (hchans : g.chans = (s.group i).chans) (ids : List TimerId) :
    MotorConfigured s (s.bindMotor m b c i g ids) m b c i where
  setting := s.sameSetting_bindMotor m b c i g ids
  past := rfl
  fault := rfl
  memory _ := rfl
  motors _ := State.bindMotor_motor_other
  groups _ := State.bindMotor_group_other
  pins p := s.pin_claimPin b.pin p m b.af
  chan := congrArg Motor.chan (State.bindMotor_motor_self hm)
  dma := congrArg Motor.dma (State.bindMotor_motor_self hm)
  hreg := congrArg Motor.hreg (State.bindMotor_motor_self hm)
  channel := by
    rw [State.bindMotor_group_self hi, Group.chan_addChannel_same, Group.chan, hchans]
    rfl
  siblings d hd := by
    rw [State.bindMotor_group_self hi, Group.chan_addChannel_other g hd, Group.chan, hchans]
    rfl

/-- Settles O24: GET_OR_CREATE appends the timer, and its group starts on the new time base. -/
theorem configureFirstMotorOfItsTimer : Obligations.ConfigureFirstMotorOfItsTimer := by
  intro s m v b c psc hready hnew hroom hpsc
  refine ⟨s.bindMotor m b c s.reg.length (((s.group s.reg.length).timeBase b.timerId v psc).start)
    (s.reg ++ [b.timerId]), ?_,
    State.motorConfigured_bindMotor hready.in_range hroom (Group.chans_start_timeBase ..) _, rfl, ?_⟩
  · rw [hready.admitted.exec_eq_configureFrom v (getOrCreate_new hnew hroom)]
    simp [State.configureFrom, hpsc]
  · rw [State.bindMotor_group_self hroom]
    exact ⟨rfl, rfl, rfl, rfl, rfl, rfl, rfl, rfl, rfl, rfl⟩

/-- Settles O25: GET_OR_CREATE finds the timer, and its group changes in the motor's channel alone. -/
theorem configureLaterMotorOfItsTimer : Obligations.ConfigureLaterMotorOfItsTimer := by
  intro s m v b c i hready hdistinct hfits hknown
  have hi : i < s.nt := (List.getElem?_eq_some_iff.1 hknown).1.trans_le hfits
  refine ⟨s.bindMotor m b c i (s.group i) s.reg, ?_, State.motorConfigured_bindMotor hready.in_range hi rfl _, rfl, ?_⟩
  · exact hready.admitted.exec_eq_configureFrom v (getOrCreate_known hdistinct hknown)
  · rw [State.bindMotor_group_self hi]
    exact ⟨Group.sameTimeBase_setChan _ c _, rfl⟩

end Sys2Proof.Machine
end

section
/-! SUPPORT. No update of the state clears a request enable or takes a channel off the trigger sources (42_configurator.md
R158). -/

namespace Sys2Proof.Machine

/-- The request enable and the place among the trigger sources that `x` has, `y` has. -/
structure CompareUnit.RequestKept (x y : CompareUnit) : Prop where
  dier : x.dier = true → y.dier = true
  src : x.src = true → y.src = true

theorem CompareUnit.RequestKept.refl (x : CompareUnit) : x.RequestKept x := ⟨id, id⟩

theorem CompareUnit.RequestKept.trans {x y z : CompareUnit} (h : x.RequestKept y) (k : y.RequestKept z) : x.RequestKept z :=
  ⟨k.dier ∘ h.dier, k.src ∘ h.src⟩

theorem CompareUnit.requestKept_enableSource (x : CompareUnit) : x.RequestKept x.enableSource := by
  unfold CompareUnit.enableSource
  split_ifs
  · exact ⟨fun _ => rfl, id⟩
  · exact .refl x

/-- Every channel of the group keeps its request. -/
def Group.RequestsKept (g h : Group) : Prop := ∀ c, (g.chan c).RequestKept (h.chan c)

theorem Group.requestsKept_setChan (g : Group) {c : Channel} {x : CompareUnit} (hx : (g.chan c).RequestKept x) :
    g.RequestsKept (g.setChan c x) := by
  intro d
  by_cases hd : d = c
  · rw [hd, Group.chan_setChan_same]
    exact hx
  · rw [Group.chan_setChan_other _ _ hd]
    exact .refl _

theorem Group.requestsKept_restart (g : Group) : g.RequestsKept g.restart := by
  intro c
  have hchan : g.restart.chan c = (g.chan c).enableSource := PerChannel.get_map _ _ c
  rw [hchan]
  exact CompareUnit.requestKept_enableSource _

theorem Group.requestsKept_tick (g : Group) : g.RequestsKept g.tick := fun c => ⟨by simp, by simp⟩

/-- Every group of `s` keeps its requests in `t`. -/
def RequestsKept (s t : State) : Prop := ∀ i, (s.group i).RequestsKept (t.group i)

theorem RequestsKept.refl (s : State) : RequestsKept s s := fun _ _ => .refl _

theorem RequestsKept.trans {s t u : State} (h : RequestsKept s t) (k : RequestsKept t u) : RequestsKept s u :=
  fun i c => (h i c).trans (k i c)

section
variable (s : State)

theorem State.requestsKept_of_groups {s t : State} (h : t.groups = s.groups) : RequestsKept s t := fun i => by
  rw [State.group_eq h]
  exact RequestsKept.refl s i

theorem State.requestsKept_setGroup {i : Nat} {g : Group} (hg : (s.group i).RequestsKept g) :
    RequestsKept s (s.setGroup i g) := by
  intro j
  rw [State.group_setGroup]
  split_ifs with hj
  · exact hj.1 ▸ hg
  · exact RequestsKept.refl s j

theorem State.requestsKept_restartCurrent : RequestsKept s s.restartCurrent := by
  unfold State.restartCurrent
  split_ifs
  · exact s.requestsKept_setGroup (Group.requestsKept_restart _)
  · exact .refl s

/-- CONFIGURE adds its channel to the group as it is, or on a new time base. -/
theorem State.requestsKept_bindMotor (m : Nat) (b : Binding) (c : Channel) {i : Nat} {g : Group}
    (hchans : g.chans = (s.group i).chans) (ids : List TimerId) : RequestsKept s (s.bindMotor m b c i g ids) := by
  intro j
  rw [State.bindMotor_group]
  split_ifs with hj
  · have hadd : g.RequestsKept (g.addChannel c) := g.requestsKept_setChan ⟨fun _ => rfl, fun _ => rfl⟩
    rw [hj.1]
    intro d
    rw [Group.chan, ← hchans]
    exact hadd d
  · exact RequestsKept.refl s j

theorem State.requestsKept_dmaRequest {s t : State} {i : Nat} {c : Channel} (h : s.dmaRequest i c = .ok t) :
    RequestsKept s t := by
  obtain rfl | ⟨m, v, -, -, -, -, rfl⟩ := State.dmaRequest_ok h
  · exact .refl t
  · exact s.requestsKept_setGroup (Group.requestsKept_setChan _ ⟨id, id⟩)

theorem State.requestsKept_timerStep (i : Nat) : RequestsKept s (s.timerStep i) := by
  have htick : RequestsKept s (s.setGroup i (s.group i).tick) := s.requestsKept_setGroup (Group.requestsKept_tick _)
  obtain hok | ⟨f, -, hf⟩ := s.timerStep_cases i
  · exact State.serveChannels_induction (P := RequestsKept s)
      (fun _ _ _ ha hb => ha.trans (State.requestsKept_dmaRequest hb)) htick hok
  · rw [hf]
    exact .refl s

end

theorem CommandEffect.requestsKept {s t : State} {i : Instr} (h : CommandEffect s i t) : RequestsKept s t := by
  cases h with
  | raise | complete => exact .refl s
  | bindLater => exact s.requestsKept_bindMotor _ _ _ rfl _
  | bindFirst => exact s.requestsKept_bindMotor _ _ _ (Group.chans_start_timeBase ..) _
  | arm => exact State.requestsKept_of_groups (s.encodeMotor_groups _ _)
  | batchNext | batchLast => exact s.requestsKept_restartCurrent

theorem TurnEffect.requestsKept {s t : State} {turn : Turn} (h : TurnEffect s turn t) : RequestsKept s t := by
  cases h with
  | idle | illegal | interrupt => exact .refl s
  | command _ effect => exact effect.requestsKept
  | tick => exact s.requestsKept_timerStep _

/-- Settles O44: taking the turn leaves the groups, and each effect a turn can have keeps every request. -/
theorem requestEnableIsNeverCleared : Obligations.RequestEnableIsNeverCleared := by
  intro s t i c h
  have hkept : RequestsKept s t :=
    (State.requestsKept_of_groups s.takeTurn_groups).trans (step_effect h).requestsKept
  exact ⟨(hkept i c).dier, (hkept i c).src⟩

end Sys2Proof.Machine
end

section
/-! SUPPORT. TC_HANDLER: its two outcomes, and what the handler leaves of its motor (43_completion_handler.md R170 to R173). -/

namespace Sys2Proof.Machine

theorem DmaStream.completed_of_flag {d : DmaStream} (h : d.tcif = true) : d.completed = { d with en := false, tcif := false } :=
  if_pos h

theorem DmaStream.completed_of_no_flag {d : DmaStream} (h : d.tcif = false) : d.completed = d := by
  simp [DmaStream.completed, h]

@[simp] theorem DmaStream.completed_tcif (d : DmaStream) : d.completed.tcif = false := by
  cases h : d.tcif with
  | true => rw [DmaStream.completed_of_flag h]
  | false => rw [DmaStream.completed_of_no_flag h, h]

section
variable (s : State) (m : Nat)

@[simp] theorem State.completeTransfer_dma : ((s.completeTransfer m).motor m).dma = (s.motor m).dma.completed := by
  by_cases hm : m < s.nm
  · simp [State.completeTransfer_motor, hm]
  · rw [State.completeTransfer_motor, if_neg (fun h => hm h.2), s.motor_out_of_range (not_lt.1 hm)]
    rfl

theorem State.completeTransfer_motor_of_flag (hm : m < s.nm) (h : (s.motor m).dma.tcif = true) :
    (s.completeTransfer m).motor m =
      { (s.motor m) with dma := { (s.motor m).dma with en := false, tcif := false } } := by
  rw [State.completeTransfer_motor, if_pos ⟨rfl, hm⟩, DmaStream.completed_of_flag h]

theorem State.completeTransfer_motor_of_no_flag (h : (s.motor m).dma.tcif = false) :
    (s.completeTransfer m).motor m = s.motor m := by
  rw [State.completeTransfer_motor, DmaStream.completed_of_no_flag h]
  split_ifs <;> rfl

theorem State.sameMotorsBut_completeTransfer : SameMotorsBut m s (s.completeTransfer m) := fun _ h =>
  s.motor_setMotor_other _ h

/-- The handler ends the pending interrupt (60_exceptions.md R225). -/
theorem State.pending_completeTransfer : (s.completeTransfer m).pending m = false := by
  simp [State.pending]

theorem exec_tcHandler_out_of_range (hm : ¬ m < s.nm) :
    exec (.tcHandler m) s = .next (s.raiseFault ⟨.badMotorIndex, some m, .motorIndex .tag⟩) :=
  if_pos hm

theorem exec_tcHandler_in_range (hm : m < s.nm) : exec (.tcHandler m) s = .next (s.completeTransfer m).advance :=
  if_neg (not_not.2 hm)

end

/-- The invariant has an unconfigured motor at reset, with its flag down. -/
theorem Inv.flag_down_of_unbound {s : State} (h : Inv s) {m : Nat} (hfree : (s.motor m).chan.bound = none) :
    (s.motor m).dma.tcif = false := by
  rw [h.motor_fresh m hfree]
  rfl

/-- Settles O30: the tag's check, then the handler's effect on its motor with the flag up or down; an unconfigured motor's
is down. -/
theorem tcHandlerCompletesOrDoesNothing : Obligations.TcHandlerCompletesOrDoesNothing := by
  intro s m
  refine ⟨exec_tcHandler_out_of_range s m, fun hm => ⟨_, exec_tcHandler_in_range s m hm,
    (s.sameSetting_completeTransfer m).trans (State.sameSetting_advance _), rfl, ⟨rfl, fun _ => rfl⟩, fun _ => rfl, rfl,
    s.sameMotorsBut_completeTransfer m, fun _ => rfl, ?set, ?unset, s.pending_completeTransfer m, ?unconfigured⟩⟩
  case set => exact s.completeTransfer_motor_of_flag m hm
  case unset => exact s.completeTransfer_motor_of_no_flag m
  case unconfigured =>
    exact fun hinv hfree => s.completeTransfer_motor_of_no_flag m (hinv.flag_down_of_unbound hfree)

end Sys2Proof.Machine
end

section
/-! SUPPORT. COMPLETE_UPDATE_CYCLE: one group's step, and the run of all of them as one update of the groups
(44_batch_update.md R180 to R182). -/

namespace Sys2Proof.Machine

/-! ### One group -/

theorem CompareUnit.enableSource_eq (x : CompareUnit) : x.enableSource = { x with dier := x.dier || x.src } := by
  unfold CompareUnit.enableSource
  split_ifs with hsrc
  · rw [hsrc, Bool.or_true]
  · rw [eq_false_of_ne_true hsrc, Bool.or_false, ← eq_false_of_ne_true hsrc]

theorem Group.chan_restart (g : Group) (c : Channel) :
    g.restart.chan c = { g.chan c with dier := (g.chan c).dier || (g.chan c).src } :=
  (PerChannel.get_map _ _ c).trans (g.chan c).enableSource_eq

/-- A group at reset has no source and a counter of 0: nothing is left to restart. -/
@[simp] theorem Group.restart_reset : Group.reset.restart = Group.reset := by decide

/-- Every source of a run's state is enabled already (42_configurator.md R158). -/
theorem Inv.dier_or_src {s : State} (h : Inv s) (i : Nat) (c : Channel) :
    (((s.group i).chan c).dier || ((s.group i).chan c).src) = ((s.group i).chan c).dier := by
  by_cases hbound : ∃ m, (s.motor m).chan.boundTo i c = true
  · obtain ⟨m, hm⟩ := hbound
    simp [(h.channel_active i c m hm).dier]
  · rw [h.channel_fresh i c (by simpa using hbound)]
    rfl

/-! ### One step -/

section
variable (s : State)

/-- The CPU after the step at its group: at the next group, or past the command. -/
def State.cpuAfterGroup : Cpu :=
  if s.cpu.batch + 1 < s.reg.length then { s.cpu with batch := s.cpu.batch + 1 }
  else { s.cpu with batch := 0, hpc := s.cpu.hpc + 1 }

theorem State.cpuAfterGroup_of_more (hmore : s.cpu.batch + 1 < s.reg.length) :
    s.cpuAfterGroup = { s.cpu with batch := s.cpu.batch + 1 } := if_pos hmore

theorem State.cpuAfterGroup_of_last (hlast : s.reg.length ≤ s.cpu.batch + 1) :
    s.cpuAfterGroup = { s.cpu with batch := 0, hpc := s.cpu.hpc + 1 } := if_neg hlast.not_gt

/-- The state after the step at its group (R181). -/
def State.afterGroup : State := { s.restartCurrent with cpu := s.cpuAfterGroup }

theorem exec_completeUpdateCycle : exec .completeUpdateCycle s = .next s.afterGroup := by
  change execCompleteUpdateCycle s = _
  unfold execCompleteUpdateCycle
  split_ifs with hmore
  · rw [State.afterGroup, s.cpuAfterGroup_of_more hmore]
  · rw [State.afterGroup, s.cpuAfterGroup_of_last (not_lt.1 hmore)]

theorem State.restartCurrent_of_lt (hgroup : s.cpu.batch < s.reg.length) :
    s.restartCurrent = s.setGroup s.cpu.batch (s.group s.cpu.batch).restart := if_pos hgroup

theorem State.restartCurrent_of_le (hnone : s.reg.length ≤ s.cpu.batch) : s.restartCurrent = s := if_neg hnone.not_gt

end

/-- Settles O28: at a registered group the step is its restart, and with no group left it writes the CPU alone. -/
theorem batchStepRestartsOneGroup : Obligations.BatchStepRestartsOneGroup := by
  refine fun s => ⟨fun hgroup hfits => ?registered, fun hnone => ?none_left⟩
  case registered =>
    have hexec := exec_completeUpdateCycle s
    rw [State.afterGroup, s.restartCurrent_of_lt hgroup] at hexec
    have hself := s.group_setGroup_same (hgroup.trans_le hfits) (s.group s.cpu.batch).restart
    refine ⟨_, hexec, (s.sameSetting_setGroup _ _).trans (State.sameSetting_setCpu _ _), ⟨rfl, fun _ => rfl⟩,
      fun _ => rfl, rfl, fun _ => rfl, fun i => s.group_setGroup_other _, congrArg Group.cnt hself, ?time_base,
      fun c => ?channel, s.cpuAfterGroup_of_more, fun hlast => s.cpuAfterGroup_of_last hlast.ge⟩
    case time_base => exact (congrArg (SameTimeBase (s.group s.cpu.batch)) hself).mpr (Group.sameTimeBase_restart _)
    case channel => exact (congrArg (Group.chan · c) hself).trans (Group.chan_restart _ c)
  case none_left =>
    have hlast : s.reg.length ≤ s.cpu.batch + 1 := hnone.trans (Nat.le_succ _)
    rw [exec_completeUpdateCycle, State.afterGroup, s.restartCurrent_of_le hnone, s.cpuAfterGroup_of_last hlast]

/-! ### All steps -/

/-- Every registered group from number `b` on, restarted: what the command still has to do at group `b` (R180). -/
def State.restartFrom (s : State) (b : Nat) : State :=
  { s with groups := s.groups.mapIdx fun i g => if b ≤ i ∧ i < s.reg.length then g.restart else g }

section
variable (s : State)

theorem State.nt_restartFrom (b : Nat) : (s.restartFrom b).nt = s.nt := List.length_mapIdx

theorem State.restartFrom_group (b i : Nat) : (s.restartFrom b).group i =
    if b ≤ i ∧ i < s.reg.length then (s.group i).restart else s.group i := by
  by_cases hi : i < s.nt
  · have hi' : i < s.groups.length := hi
    simp [State.group, State.restartFrom, hi']
  · have hout := not_lt.1 hi
    simp [s.group_out_of_range hout, (s.restartFrom b).group_out_of_range ((s.nt_restartFrom b).trans_le hout)]

/-- States that agree in their groups one by one agree in the list. -/
theorem State.groups_ext {s t : State} (hnt : s.nt = t.nt) (hgroup : ∀ i, s.group i = t.group i) :
    s.groups = t.groups := by
  refine List.ext_getElem hnt fun i hs ht => ?_
  simpa [State.group, hs, ht] using hgroup i

/-- Above `NT` a group is at reset, so the step's restart may be read for every group alike. -/
theorem State.restartCurrent_group_eq (i : Nat) : s.restartCurrent.group i =
    if i = s.cpu.batch ∧ s.cpu.batch < s.reg.length then (s.group i).restart else s.group i := by
  rw [State.restartCurrent_group, State.regCount]
  by_cases hi : i < s.nt
  · refine if_congr ?_ rfl rfl
    constructor
    · exact fun ⟨hcurrent, hgroup, _⟩ => ⟨hcurrent, hgroup⟩
    · exact fun ⟨hcurrent, hgroup⟩ => ⟨hcurrent, hgroup, hcurrent ▸ hi⟩
  · simp [s.group_out_of_range (not_lt.1 hi)]

theorem State.restartFrom_of_le {b : Nat} (hnone : s.reg.length ≤ b) : s.restartFrom b = s := by
  have hgroups : (s.restartFrom b).groups = s.groups := State.groups_ext (s.nt_restartFrom b) fun i => by
    rw [State.restartFrom_group, if_neg (by omega)]
  exact congrArg (fun groups => { s with groups := groups }) hgroups

/-- The step at the current group, then the groups after it, are the groups from the current one on. -/
theorem State.restartFrom_restartCurrent :
    s.restartCurrent.restartFrom (s.cpu.batch + 1) = s.restartFrom s.cpu.batch := by
  have hgroups : (s.restartCurrent.restartFrom (s.cpu.batch + 1)).groups = (s.restartFrom s.cpu.batch).groups := by
    refine State.groups_ext ?_ fun i => ?_
    · simp [State.nt_restartFrom, s.sameSetting_restartCurrent.nt]
    · rw [State.restartFrom_group, State.restartFrom_group, State.restartCurrent_group_eq, State.restartCurrent_reg]
      obtain hbefore | rfl | hafter := lt_trichotomy i s.cpu.batch
      · rw [if_neg (by omega), if_neg (by omega), if_neg (by omega)]
      · simp
      · simp [hafter.ne', hafter.le, Nat.succ_le_of_lt hafter]
  calc s.restartCurrent.restartFrom (s.cpu.batch + 1)
      = { s with groups := (s.restartCurrent.restartFrom (s.cpu.batch + 1)).groups } := by
        unfold State.restartCurrent
        split_ifs <;> rfl
    _ = s.restartFrom s.cpu.batch := by
        rw [hgroups]
        rfl

/-- With no group left after the current one, the step does all that is left. -/
theorem State.restartCurrent_of_last (hlast : s.reg.length ≤ s.cpu.batch + 1) :
    s.restartCurrent = s.restartFrom s.cpu.batch := by
  rw [← State.restartFrom_restartCurrent, State.restartFrom_of_le]
  rwa [State.restartCurrent_reg]

/-- The state past the command, every group from the current one on restarted. -/
def State.batchDone : State :=
  { s.restartFrom s.cpu.batch with cpu := { s.cpu with batch := 0, hpc := s.cpu.hpc + 1 } }

theorem State.batchDone_group (i : Nat) : s.batchDone.group i =
    if s.cpu.batch ≤ i ∧ i < s.reg.length then (s.group i).restart else s.group i := s.restartFrom_group _ i

theorem State.afterGroup_of_last (hlast : s.reg.length ≤ s.cpu.batch + 1) : s.afterGroup = s.batchDone := by
  rw [State.afterGroup, s.restartCurrent_of_last hlast, s.cpuAfterGroup_of_last hlast]
  rfl

/-- One group's step leaves the rest of the command's effect to be done. -/
theorem State.batchDone_afterGroup (hmore : s.cpu.batch + 1 < s.reg.length) : s.afterGroup.batchDone = s.batchDone := by
  rw [State.afterGroup, s.cpuAfterGroup_of_more hmore]
  exact congrArg (fun t : State => { t with cpu := { s.cpu with batch := 0, hpc := s.cpu.hpc + 1 } })
    s.restartFrom_restartCurrent

theorem State.restartCurrent_fault : s.restartCurrent.fault = s.fault := by
  unfold State.restartCurrent
  split_ifs <;> rfl

theorem State.afterGroup_reg : s.afterGroup.reg = s.reg := s.restartCurrent_reg

theorem State.afterGroup_cpu (hmore : s.cpu.batch + 1 < s.reg.length) :
    s.afterGroup.cpu = { s.cpu with batch := s.cpu.batch + 1 } := s.cpuAfterGroup_of_more hmore

theorem State.sameSetting_afterGroup : SameSetting s s.afterGroup :=
  s.sameSetting_restartCurrent.trans (State.sameSetting_setCpu _ _)

end

theorem runSteps_succ {s t : State} (h : step s = .next t) (n : Nat) : runSteps (n + 1) s = runSteps n t := by
  have hcore : core.step s = .next t := h
  simp only [runSteps, Host.Core.run, hcore]
  rfl

theorem RunsCommand.step_completeUpdateCycle {s : State} {rest : List Turn}
    (h : RunsCommand s .completeUpdateCycle rest) : step s = .next { s with sched := rest }.afterGroup :=
  (stepRunsTheDecodedCommand s _ rest h).trans (exec_completeUpdateCycle _)

/-- With a group left, the CPU's next turn goes on with the command, which still ends in the same state (R182). -/
theorem RunsCommand.next_group {s : State} {rest : List Turn}
    (h : RunsCommand s .completeUpdateCycle (.host :: rest)) (hmore : s.cpu.batch + 1 < s.reg.length) :
    ∃ t, step s = .next t ∧ RunsCommand t .completeUpdateCycle rest ∧ t.reg = s.reg ∧
      t.cpu.batch = s.cpu.batch + 1 ∧
      ∀ turns, { t with sched := turns }.batchDone = { s with sched := turns }.batchDone := by
  have hsame := { s with sched := .host :: rest }.sameSetting_afterGroup
  have hcpu := { s with sched := .host :: rest }.afterGroup_cpu hmore
  have hdone := { s with sched := .host :: rest }.batchDone_afterGroup hmore
  refine ⟨_, h.step_completeUpdateCycle, ?runs_on, State.afterGroup_reg _, congrArg Cpu.batch hcpu, fun turns =>
    congrArg (fun t : State => { t with sched := turns }) hdone⟩
  case runs_on => exact
    { motor_count := hsame.nm ▸ h.motor_count
      no_fault := (State.restartCurrent_fault _).trans h.no_fault
      main := hcpu ▸ h.main
      turn := hsame.sched
      word := by
        rw [hsame.prog, hcpu]
        exact h.word }

/-- With a turn for each group left, `k` of them after the current one, the command comes to its end. -/
theorem runSteps_completeUpdateCycle {k : Nat} {rest : List Turn} {s : State}
    (hk : s.reg.length - (s.cpu.batch + 1) = k)
    (hruns : RunsCommand s .completeUpdateCycle (List.replicate k .host ++ rest)) :
    runSteps (k + 1) s = .next { s with sched := rest }.batchDone := by
  induction k generalizing s with
  | zero =>
    rw [runSteps_succ hruns.step_completeUpdateCycle]
    exact congrArg _ (State.afterGroup_of_last _ (Nat.sub_eq_zero_iff_le.1 hk))
  | succ k ih =>
    obtain ⟨t, hstep, hnext, hreg, hbatch, hdone⟩ := hruns.next_group (by omega)
    have hleft : t.reg.length - (t.cpu.batch + 1) = k := by
      rw [hreg, hbatch]
      omega
    rw [runSteps_succ hstep, ih hleft hnext, hdone]

/-- Settles O29: the run is one update of the groups from number 0 on. -/
theorem batchRestartsEveryGroup : Obligations.BatchRestartsEveryGroup := by
  intro s rest n _ hbatch hn hruns
  have hturns : s.reg.length - (s.cpu.batch + 1) = n - 1 := by omega
  have hrun := runSteps_completeUpdateCycle hturns hruns
  rw [show n - 1 + 1 = n by omega] at hrun
  have hgroup : ∀ i, { s with sched := rest }.batchDone.group i =
      if i < s.reg.length then (s.group i).restart else s.group i := fun i =>
    (State.batchDone_group _ i).trans (if_congr (by simp [hbatch]) rfl rfl)
  refine ⟨_, hrun, ⟨rfl, rfl, rfl, rfl, rfl, State.nt_restartFrom _ _⟩, ?past, hruns.no_fault, fun _ => rfl,
    ⟨rfl, fun _ => rfl⟩, fun _ => rfl, fun i hi => ?registered, fun i hi => ?unregistered, fun hinv i c => ?enables⟩
  case past => simp [PastOneCommand, State.batchDone, hbatch]
  case registered =>
    rw [hgroup, if_pos hi]
    exact ⟨rfl, Group.sameTimeBase_restart _, Group.chan_restart _⟩
  case unregistered => rw [hgroup, if_neg hi.not_gt]
  case enables =>
    rw [hgroup]
    split_ifs
    · rw [Group.chan_restart]
      exact hinv.dier_or_src i c
    · rfl

end Sys2Proof.Machine
end

section
/-! SUPPORT. Faults: what raising one leaves to the next step, and that ENCODE of a motor whose flag is up raises code 7
(60_exceptions.md R220, R230). -/

namespace Sys2Proof.Machine

theorem State.raiseFault_fault_eq_some (s : State) (f : FaultRecord) :
    (s.raiseFault f).fault = some (s.fault.getD f) := by
  rw [State.raiseFault_fault]
  cases s.fault <;> rfl

/-- Settles O7: the frame of raising a fault, and the record that halts the next step and bars a successful end. -/
theorem raisingAFaultRecordsAdvancesAndHalts : Obligations.RaisingAFaultRecordsAdvancesAndHalts := by
  refine fun s f => ⟨s.raisedFault_raiseFault f, fun hnm => ?halts, fun hquiet => ?no_end⟩
  case halts =>
    have hlegal : (s.raiseFault f).motorCountLegal = true := decide_eq_true hnm
    exact step_halted hlegal (s.raiseFault_fault_eq_some f)
  case no_end =>
    have hnone := hquiet.no_fault
    rw [State.raiseFault_fault_eq_some] at hnone
    cases hnone

section
variable {s : State} {m : Nat}

/-- In the invariant a flag is up only on a configured motor. -/
theorem Inv.bound_of_flag (h : Inv s) (hflag : (s.motor m).dma.tcif = true) :
    ∃ bd, (s.motor m).chan.bound = some bd := by
  refine Option.ne_none_iff_exists'.1 fun hfree => ?_
  exact absurd (hflag.symm.trans (h.flag_down_of_unbound hfree)) nofun

/-- In the invariant the interrupt enable and the registration stand wherever a flag can rise: a flag that is up is a pending
interrupt (10_state.md R32). -/
theorem Inv.pending_eq_flag (h : Inv s) (m : Nat) : s.pending m = (s.motor m).dma.tcif := by
  cases hflag : (s.motor m).dma.tcif with
  | false => simp [State.pending, hflag]
  | true =>
    obtain ⟨bd, hbound⟩ := h.bound_of_flag hflag
    obtain ⟨htcie, hhreg, -⟩ := h.motor_ready m bd hbound
    simp [State.pending, hflag, htcie, hhreg]

end

/-- Settles O22: a flag is up only on a configured motor whose stream is enabled, which is ENCODE's check 7. -/
theorem encodeBeforeTheHandlerFaults : Obligations.EncodeBeforeTheHandlerFaults := by
  intro s m th hinv hflag
  obtain ⟨bd, hbound⟩ := hinv.bound_of_flag hflag
  obtain ⟨hen, -⟩ := (hinv.stream_consistent m).flag.1 hflag
  exact ⟨bd, hbound, exec_encode_enabled th (State.bound_in_range hbound) hbound hen⟩

end Sys2Proof.Machine
end

section
/-! SUPPORT. No step from a state of the invariant reads a field without a value (60_exceptions.md R222). -/

namespace Sys2Proof.Machine

/-- No code 11 is recorded. -/
def State.NoUnwrittenRead (s : State) : Prop := ∀ f, s.fault = some f → f.code ≠ .unwrittenRead

theorem State.noUnwrittenRead_of_fault_none {s : State} (h : s.fault = none) : s.NoUnwrittenRead := by
  intro f hf
  cases h.symm.trans hf

section
variable {s : State}

theorem State.NoUnwrittenRead.of_fault_eq {t : State} (h : s.NoUnwrittenRead) (ht : t.fault = s.fault) :
    t.NoUnwrittenRead := by
  rwa [State.NoUnwrittenRead, ht]

theorem State.NoUnwrittenRead.raiseFault (h : s.NoUnwrittenRead) {f : FaultRecord} (hf : f.code ≠ .unwrittenRead) :
    (s.raiseFault f).NoUnwrittenRead := by
  intro g hg
  rw [State.raiseFault_fault] at hg
  split_ifs at hg
  · cases hg
    exact hf
  · exact h g hg

/-! ### Commands -/

theorem Channel.eq_selector_of_ofSelector {n : Nat} {c : Channel} (h : Channel.ofSelector n = some c) :
    n = c.selector := by
  unfold Channel.ofSelector at h
  split at h <;> cases h <;> rfl

/-- CONFIGURE's read for code 8 meets a registry entry for every configured motor. -/
theorem Inv.bindingConflict_code (h : Inv s) {m : Nat} {b : Binding} {c : Channel} {f : FaultRecord}
    (hf : s.bindingConflict m b c = some f) : f.code ≠ .unwrittenRead := by
  have hregistered : s.unregisteredMotor = none :=
    State.unregisteredMotor_eq_none fun n bd _ hbound => h.bound_registered n bd hbound
  unfold State.bindingConflict at hf
  rw [hregistered] at hf
  split_ifs at hf
  · cases hf
    nofun
  · cases hf
    nofun
  · cases hf
    nofun

theorem Inv.noUnwrittenRead_configure (h : Inv s) (hs : s.NoUnwrittenRead) {m : Nat} {v : Variant} {t : State}
    (ht : exec (.configure m v) s = .next t) : t.NoUnwrittenRead := by
  by_cases hm : m < s.nm
  swap
  · cases (exec_configure_out_of_range v hm).symm.trans ht
    exact hs.raiseFault nofun
  cases hfree : (s.motor m).chan.bound with
  | some bd =>
    cases (exec_configure_configured v hm hfree).symm.trans ht
    exact hs.raiseFault nofun
  | none =>
    cases hrow : platBinding s.plat m with
    | none => cases (exec_configure_no_binding v hm hfree hrow).symm.trans ht
    | some b =>
      cases hsel : Channel.ofSelector b.channel with
      | none =>
        cases (exec_configure_unsupported v hm hfree hrow hsel).symm.trans ht
        exact hs.raiseFault nofun
      | some c =>
        cases hconflict : s.bindingConflict m b c with
        | some f =>
          have hcode := h.bindingConflict_code hconflict
          cases (exec_configure_conflict v hm hfree hrow (Channel.eq_selector_of_ofSelector hsel) hconflict).symm.trans ht
          exact hs.raiseFault hcode
        | none =>
          have adm : ConfigureAdmitted s m b c := ⟨hm, hfree, hrow, hsel, hconflict⟩
          cases hget : getOrCreate s.nt s.reg b.timerId with
          | none =>
            cases (adm.exec_registry_full v hget).symm.trans ht
            exact hs.raiseFault nofun
          | some r =>
            obtain ⟨-, rfl⟩ | ⟨psc, -, -, rfl⟩ :=
              State.configureFrom_next ((adm.exec_eq_configureFrom v hget).symm.trans ht)
            · exact hs
            · exact hs

theorem Inv.noUnwrittenRead_exec (h : Inv s) (hs : s.NoUnwrittenRead) {i : Instr} {t : State}
    (ht : exec i s = .next t) : t.NoUnwrittenRead := by
  cases i with
  | configure m v => exact h.noUnwrittenRead_configure hs ht
  | encode m th =>
    obtain ⟨-, rfl⟩ | ⟨-, -, rfl⟩ | ⟨bd, -, -, -, rfl⟩ | ⟨bd, -, -, -, rfl⟩ := execEncode_next ht
    · exact hs.raiseFault nofun
    · exact hs.raiseFault nofun
    · exact hs.raiseFault nofun
    · exact hs.of_fault_eq (s.encodeMotor_fault m th)
  | completeUpdateCycle =>
    cases (exec_completeUpdateCycle s).symm.trans ht
    exact hs.of_fault_eq s.restartCurrent_fault
  | tcHandler m =>
    obtain ⟨-, rfl⟩ | ⟨-, rfl⟩ := execTcHandler_next ht
    · exact hs.raiseFault nofun
    · exact hs

/-! ### Timer steps -/

/-- The next entry of an enabled stream with a count left is written. -/
theorem Inv.nextEntry_ne_none (h : Inv s) {m : Nat} (hen : (s.motor m).dma.en = true)
    (hleft : (s.motor m).dma.ndtr ≠ 0#16) : s.nextEntry m ≠ none := by
  have hcount : (s.motor m).dma.ndtr.toNat ≤ 16 := (h.stream_consistent m).count
  have hentry : 16 - (s.motor m).dma.ndtr.toNat < 16 := by bv_omega
  rw [State.nextEntry, Config.bufLen, if_pos hcount]
  obtain hread | hread := h.buffer_written m _ hen hentry <;> simp [hread]

theorem Inv.dmaRequest_ne_error (h : Inv s) {i : Nat} {c : Channel} {f : FaultRecord} : s.dmaRequest i c ≠ .error f := by
  intro herror
  obtain ⟨m, -, hen, hleft, hnone, -⟩ := State.dmaRequest_error herror
  exact h.nextEntry_ne_none hen hleft hnone

theorem State.dmaRequest_fault {t : State} {i : Nat} {c : Channel} (h : s.dmaRequest i c = .ok t) : t.fault = s.fault := by
  obtain rfl | ⟨m, v, -, -, -, -, rfl⟩ := State.dmaRequest_ok h <;> rfl

/-- A tick in the invariant serves every request, so it records no fault. -/
theorem Inv.timerStep_fault (h : Inv s) {i : Nat} (hcen : (s.group i).cen = true) : (s.timerStep i).fault = s.fault := by
  have htick : Inv (s.setGroup i (s.group i).tick) := h.setGroup (h.registered_of_cen hcen) (Group.keeps_tick _)
  obtain ⟨t, ht⟩ : ∃ t, (s.setGroup i (s.group i).tick).serveChannels i Channel.all = .ok t :=
    State.serveChannels_ok (P := Inv) (fun _ _ _ ha hb => ha.dmaRequest hb) (fun _ _ _ ha => ha.dmaRequest_ne_error) htick
  obtain hok | ⟨f, hf, -⟩ := s.timerStep_cases i
  · exact State.serveChannels_induction (P := fun u => u.fault = s.fault)
      (fun _ _ _ ha hb => (State.dmaRequest_fault hb).trans ha) (s.setGroup_fault i _) hok
  · cases ht.symm.trans hf

/-! ### Turns -/

theorem Inv.noUnwrittenRead_runTurn (h : Inv s) (hs : s.NoUnwrittenRead) {turn : Turn} {t : State}
    (ht : s.runTurn turn = .next t) : t.NoUnwrittenRead := by
  obtain rfl | ⟨w, -, -, -, hrun⟩ | ⟨m, -, -, -, rfl⟩ | ⟨i, -, hcen, rfl⟩ := State.runTurn_next ht
  · exact hs
  · obtain ⟨i, -, hexec⟩ | ⟨e, -, rfl⟩ := State.runWord_next hrun
    · exact h.noUnwrittenRead_exec hs hexec
    · exact hs.raiseFault nofun
  · exact hs
  · exact hs.of_fault_eq (h.timerStep_fault hcen)

end

/-- Settles O14: CONFIGURE's registry read and a transfer's buffer read are the two that could meet no value, and the
invariant has both written. -/
theorem unwrittenReadIsUnreachable : Obligations.UnwrittenReadIsUnreachable := by
  intro s t f hinv h
  obtain ⟨-, hfault, hturn⟩ := step_next h
  have hclean : s.takeTurn.2.NoUnwrittenRead :=
    State.noUnwrittenRead_of_fault_none (s.takeTurn_fault.trans hfault)
  exact hinv.takeTurn.noUnwrittenRead_runTurn hclean hturn f

end Sys2Proof.Machine
end

section
/-! SUPPORT. A handler's turn: the pending interrupt it takes, and when it changes nothing (60_exceptions.md R225, R227). -/

namespace Sys2Proof.Machine

section
variable {s : State} {m : Nat}

theorem State.handlerTurn_taken (hmain : s.cpu.saved = none) (hbatch : s.cpu.batch = 0) (hpending : s.pending m = true) :
    s.handlerTurn m = .next (s.completeTransfer m) := by
  simp [State.handlerTurn, s.admitsHandler_iff.2 ⟨hmain, hbatch⟩, hpending, State.takeInterrupt_eq hmain]

/-- Inside a COMPLETE_UPDATE_CYCLE the interrupt waits (log 6). -/
theorem State.handlerTurn_waits (hbatch : s.cpu.batch ≠ 0) : s.handlerTurn m = .next s := by
  simp [State.handlerTurn, State.admitsHandler, hbatch]

theorem State.handlerTurn_idle (hpending : s.pending m = false) : s.handlerTurn m = .next s := by
  simp [State.handlerTurn, hpending]

/-- A pending interrupt is of a motor the state has, with its flag up. -/
theorem State.in_range_of_pending (h : s.pending m = true) : m < s.nm := by
  by_contra hm
  rw [State.pending, s.motor_out_of_range (not_lt.1 hm)] at h
  cases h

theorem State.flag_of_pending (h : s.pending m = true) : (s.motor m).dma.tcif = true := by
  simp only [State.pending, Bool.and_eq_true] at h
  exact h.1.1

theorem State.interruptTaken_completeTransfer (hpending : s.pending m = true) (hfault : s.fault = none) :
    InterruptTaken m s (s.completeTransfer m) where
  setting := s.sameSetting_completeTransfer m
  cpu := rfl
  rest := ⟨rfl, fun _ => rfl⟩
  memory _ := rfl
  fault := hfault
  motors := s.sameMotorsBut_completeTransfer m
  groups _ := rfl
  motor := s.completeTransfer_motor_of_flag m (State.in_range_of_pending hpending) (State.flag_of_pending hpending)
  cleared := s.pending_completeTransfer m

end

/-- Settles O31: the turn is `handlerTurn`, which takes the interrupt, waits, or finds none. -/
theorem handlerTurnTakesAPendingInterrupt : Obligations.HandlerTurnTakesAPendingInterrupt := by
  refine fun s m rest hturn hmain => ⟨fun hpending hbatch => ?taken, fun hbatch => ?waits, fun hpending => ?idle⟩
  case taken =>
    exact ⟨_, hturn.step_eq.trans (State.handlerTurn_taken hmain hbatch hpending),
      State.interruptTaken_completeTransfer hpending hturn.no_fault⟩
  case waits => exact hturn.step_eq.trans (State.handlerTurn_waits hbatch)
  case idle => exact hturn.step_eq.trans (State.handlerTurn_idle hpending)

end Sys2Proof.Machine
end

section
/-! SUPPORT. The handler's effect commutes with another motor's, with a group's restart and, at a count of 0, with a timer step
(60_exceptions.md R229, log 6). -/

namespace Sys2Proof.Machine

/-! ### Two motors -/

section
variable (s : State) {m k : Nat}

theorem State.setMotor_comm (hk : k ≠ m) (u v : Motor) :
    (s.setMotor m u).setMotor k v = (s.setMotor k v).setMotor m u := by
  simp only [State.setMotor, List.set_comm u v hk.symm]

theorem State.completeTransfer_motor_other (hk : k ≠ m) : (s.completeTransfer m).motor k = s.motor k :=
  s.motor_setMotor_other _ hk

theorem State.completeTransfer_setMotor (hk : k ≠ m) (u : Motor) :
    (s.setMotor k u).completeTransfer m = (s.completeTransfer m).setMotor k u := by
  calc (s.setMotor k u).completeTransfer m
      = (s.setMotor k u).setMotor m { (s.motor m) with dma := (s.motor m).dma.completed } := by
        rw [State.completeTransfer, s.motor_setMotor_other u hk.symm]
    _ = (s.completeTransfer m).setMotor k u := s.setMotor_comm hk.symm _ _

theorem State.completeTransfer_comm (hk : k ≠ m) :
    (s.completeTransfer m).completeTransfer k = (s.completeTransfer k).completeTransfer m := by
  calc (s.completeTransfer m).completeTransfer k
      = (s.completeTransfer m).setMotor k { (s.motor k) with dma := (s.motor k).dma.completed } := by
        rw [← s.completeTransfer_motor_other hk, ← State.completeTransfer]
    _ = (s.completeTransfer k).completeTransfer m := (s.completeTransfer_setMotor hk _).symm

end

/-! ### A group's step of COMPLETE_UPDATE_CYCLE -/

section
variable (s : State) (m : Nat)

theorem State.restartCurrent_completeTransfer :
    (s.completeTransfer m).restartCurrent = s.restartCurrent.completeTransfer m := by
  obtain hgroup | hnone := Nat.lt_or_ge s.cpu.batch s.reg.length
  · rw [s.restartCurrent_of_lt hgroup, (s.completeTransfer m).restartCurrent_of_lt hgroup]
    rfl
  · rw [s.restartCurrent_of_le hnone, (s.completeTransfer m).restartCurrent_of_le hnone]

theorem State.afterGroup_completeTransfer : (s.completeTransfer m).afterGroup = s.afterGroup.completeTransfer m := by
  rw [State.afterGroup, State.restartCurrent_completeTransfer]
  rfl

theorem State.afterGroup_saved : s.afterGroup.cpu.saved = s.cpu.saved := by
  change s.cpuAfterGroup.saved = _
  unfold State.cpuAfterGroup
  split_ifs <;> rfl

end

/-! ### A timer step -/

@[simp] theorem DmaStream.completed_ndtr (d : DmaStream) : d.completed.ndtr = d.ndtr := by
  unfold DmaStream.completed
  split_ifs <;> rfl

section
variable {s : State} {m : Nat} (i : Nat)

theorem State.completeTransfer_chan (m k : Nat) : ((s.completeTransfer m).motor k).chan = (s.motor k).chan := by
  rw [State.completeTransfer_motor]
  split_ifs with hk
  · rw [hk.1]
  · rfl

theorem State.servedMotor_completeTransfer (c : Channel) :
    (s.completeTransfer m).servedMotor i c = s.servedMotor i c := by
  simp only [State.servedMotor, State.completeTransfer_chan, (s.sameSetting_completeTransfer m).nm]

theorem State.nextEntry_completeTransfer {k : Nat} (hk : k ≠ m) :
    (s.completeTransfer m).nextEntry k = s.nextEntry k := by
  rw [State.nextEntry, s.completeTransfer_motor_other hk]
  rfl

theorem State.transfer_completeTransfer {k : Nat} (hk : k ≠ m) (c : Channel) (v : Byte) :
    (s.completeTransfer m).transfer i c k v = (s.transfer i c k v).completeTransfer m := by
  rw [State.transfer, s.completeTransfer_motor_other hk]
  exact (State.completeTransfer_setMotor (s.writeCompare i c (BitVec.setWidth 16 v)) hk _).symm

/-- At a count of 0 the motor's own request is dropped before its handler and after it; another motor's is served alike. -/
theorem State.dmaRequest_completeTransfer (hdone : (s.motor m).dma.ndtr = 0#16) (c : Channel) :
    (s.completeTransfer m).dmaRequest i c = (s.dmaRequest i c).map (·.completeTransfer m) := by
  unfold State.dmaRequest
  rw [State.servedMotor_completeTransfer]
  cases s.servedMotor i c with
  | none => rfl
  | some k =>
    by_cases hk : k = m
    · subst hk
      simp [hdone, Except.map]
    · simp only [s.completeTransfer_motor_other hk, State.nextEntry_completeTransfer hk,
        State.transfer_completeTransfer i hk]
      split_ifs
      · cases s.nextEntry k <;> rfl
      · rfl

/-- A count of 0 stays, since a request of its motor is dropped. -/
theorem State.ndtr_dmaRequest {t : State} {c : Channel} (hdone : (s.motor m).dma.ndtr = 0#16)
    (h : s.dmaRequest i c = .ok t) : (t.motor m).dma.ndtr = 0#16 := by
  obtain rfl | ⟨k, v, -, -, hleft, -, rfl⟩ := State.dmaRequest_ok h
  · exact hdone
  · have hk : m ≠ k := by
      rintro rfl
      exact hleft hdone
    rwa [State.transfer_motor, if_neg fun hm => hk hm.1]

theorem State.serveChannels_completeTransfer (cs : List Channel) (hdone : (s.motor m).dma.ndtr = 0#16) :
    (s.completeTransfer m).serveChannels i cs = (s.serveChannels i cs).map (·.completeTransfer m) := by
  induction cs generalizing s with
  | nil => rfl
  | cons c rest ih =>
    have hgroup : (s.completeTransfer m).group i = s.group i := rfl
    unfold State.serveChannels
    rw [hgroup, State.dmaRequest_completeTransfer i hdone]
    split_ifs
    · cases hrequest : s.dmaRequest i c with
      | error f => rfl
      | ok t => exact ih (State.ndtr_dmaRequest i hdone hrequest)
    · exact ih hdone

theorem State.timerStep_completeTransfer (hdone : (s.motor m).dma.ndtr = 0#16) :
    (s.completeTransfer m).timerStep i = (s.timerStep i).completeTransfer m := by
  have hserve : ((s.completeTransfer m).setGroup i (s.group i).tick).serveChannels i Channel.all =
      ((s.setGroup i (s.group i).tick).serveChannels i Channel.all).map (·.completeTransfer m) :=
    State.serveChannels_completeTransfer (s := s.setGroup i (s.group i).tick) i Channel.all hdone
  have hgroup : (s.completeTransfer m).group i = s.group i := rfl
  unfold State.timerStep
  rw [hgroup, hserve]
  cases (s.setGroup i (s.group i).tick).serveChannels i Channel.all <;> rfl

end

/-- Settles O33: from the main context an interrupt is the handler's effect alone, which commutes with the other motor's, with
the group's restart, and, since a pending interrupt's stream has count 0, with the tick. -/
theorem handlersCommute : Obligations.HandlersCommute := by
  refine ⟨fun s m n hmain hne => ?motors, fun s t m hmain h => ?batch, fun s m i hinv hpending => ?tick⟩
  case motors =>
    have hmain' : ∀ k, (s.completeTransfer k).cpu.saved = none := fun _ => hmain
    rw [State.takeInterrupt_eq hmain, State.takeInterrupt_eq hmain, State.takeInterrupt_eq (hmain' m),
      State.takeInterrupt_eq (hmain' n), s.completeTransfer_comm hne.symm]
  case batch =>
    cases (exec_completeUpdateCycle s).symm.trans h
    rw [State.takeInterrupt_eq hmain, State.takeInterrupt_eq (s.afterGroup_saved.trans hmain), exec_completeUpdateCycle,
      State.afterGroup_completeTransfer]
  case tick =>
    have hdone := ((hinv.stream_consistent m).flag.1 (State.flag_of_pending hpending)).2
    have hmain : (s.timerStep i).cpu.saved = none := (s.tickFrame_timerStep i).cpu ▸ hinv.main_context
    rw [State.takeInterrupt_eq hinv.main_context, State.takeInterrupt_eq hmain, State.timerStep_completeTransfer i hdone]

end Sys2Proof.Machine
end

section
/-! SUPPORT. Under fair turns the host's program comes to its end, and then every handler's turn is admitted
(60_exceptions.md R225, 45_streamer.md R204). -/

namespace Sys2Proof.Machine

/-- A bound on the host turns that the program still has steps for: `NT + 1` for each command left, less the groups that a
COMPLETE_UPDATE_CYCLE in progress has done. -/
def State.hostWork (s : State) : Nat := (s.prog.length - s.cpu.hpc) * (s.nt + 1) - s.cpu.batch

theorem SameSetting.hostWork {s t : State} (h : SameSetting s t) (hcpu : t.cpu = s.cpu) : t.hostWork = s.hostWork := by
  rw [State.hostWork, h.prog, h.nt, hcpu]
  rfl

/-- The CPU after a host step: past its command, or at the next registered group of a COMPLETE_UPDATE_CYCLE. -/
def HostMoves (s t : State) : Prop :=
  t.cpu.hpc = s.cpu.hpc + 1 ∨
    (t.cpu = { s.cpu with batch := s.cpu.batch + 1 } ∧ s.cpu.batch + 1 < s.reg.length)

theorem CommandEffect.hostMoves {s t : State} {i : Instr} (h : CommandEffect s i t) : HostMoves s t := by
  cases h with
  | batchNext more => exact .inr ⟨rfl, more⟩
  | arm => exact .inl (by simp)
  | raise | bindLater | bindFirst | batchLast | complete => exact .inl rfl

theorem State.hostMoves_runWord {s t : State} {w : Word} (h : s.runWord w = .next t) : HostMoves s t := by
  obtain ⟨i, -, hexec⟩ | ⟨e, -, rfl⟩ := State.runWord_next h
  · exact (exec_effect hexec).hostMoves
  · exact .inl rfl

section
variable {s t : State}

theorem Inv.batch_le_nt (h : Inv s) : s.cpu.batch ≤ s.nt := by
  have hfits := h.reg_fits
  have hrange := h.batch_in_range
  omega

/-- The work at a command: `NT + 1` for it, less the groups done, and `NT + 1` for each command after it. -/
theorem State.hostWork_of_lt (hcommand : s.cpu.hpc < s.prog.length) :
    s.hostWork = (s.prog.length - (s.cpu.hpc + 1)) * (s.nt + 1) + (s.nt + 1) - s.cpu.batch := by
  have hsplit : s.prog.length - s.cpu.hpc = s.prog.length - (s.cpu.hpc + 1) + 1 := by omega
  rw [State.hostWork, hsplit, Nat.succ_mul]

theorem Inv.hostWork_lt (h : Inv s) (hcommand : s.cpu.hpc < s.prog.length) (hsame : SameSetting s t)
    (hmoves : HostMoves s t) : t.hostWork < s.hostWork := by
  have hbatch := h.batch_le_nt
  have hfits := h.reg_fits
  have hwork := State.hostWork_of_lt hcommand
  obtain hpast | ⟨hcpu, hmore⟩ := hmoves
  · have hafter : t.hostWork ≤ (s.prog.length - (s.cpu.hpc + 1)) * (s.nt + 1) := by
      rw [State.hostWork, hsame.prog, hsame.nt, hpast]
      exact Nat.sub_le _ _
    omega
  · have hafter : t.hostWork = (s.prog.length - (s.cpu.hpc + 1)) * (s.nt + 1) + (s.nt + 1) - (s.cpu.batch + 1) := by
      have hcommand' : t.cpu.hpc < t.prog.length := by
        rw [hsame.prog, hcpu]
        exact hcommand
      rw [State.hostWork_of_lt hcommand', hsame.prog, hsame.nt, hcpu]
    omega

/-- With no host work left, no COMPLETE_UPDATE_CYCLE is in progress. -/
theorem Inv.batch_eq_zero_of_hostWork (h : Inv s) (hdone : s.hostWork = 0) : s.cpu.batch = 0 := by
  by_contra hbatch
  have hwork := State.hostWork_of_lt (State.AtCommand.lt_length (h.batch_command hbatch))
  have hle := h.batch_le_nt
  omega

/-! ### Turns -/

theorem State.hostTurn_at_end (hend : s.prog[s.cpu.hpc]? = none) : s.hostTurn = .next s := by
  simp [State.hostTurn, State.hostWord, hend]

/-- A host turn does a piece of the work that is left. -/
theorem Inv.hostWork_hostTurn (h : Inv s) (ht : s.hostTurn = .next t) : t.hostWork ≤ s.hostWork - 1 := by
  cases hword : s.prog[s.cpu.hpc]? with
  | some w =>
    have hrun := (State.hostTurn_eq_runWord h.main_context hword).symm.trans ht
    have hlt := h.hostWork_lt (List.getElem?_eq_some_iff.1 hword).1 (State.sameSetting_runWord hrun)
      (State.hostMoves_runWord hrun)
    omega
  | none =>
    cases (State.hostTurn_at_end hword).symm.trans ht
    have hend : s.prog.length - s.cpu.hpc = 0 := Nat.sub_eq_zero_of_le (List.getElem?_eq_none_iff.1 hword)
    simp [State.hostWork, hend]

/-- The turns of handlers and timers leave the CPU. -/
theorem TurnEffect.cpu_eq {turn : Turn} (h : TurnEffect s turn t) (hturn : turn ≠ .host) : t.cpu = s.cpu := by
  cases h with
  | idle => rfl
  | illegal | command => exact absurd rfl hturn
  | interrupt main => exact State.takeInterrupt_cpu main
  | tick => exact (s.tickFrame_timerStep _).cpu

theorem Inv.hostWork_runTurn (h : Inv s) {turn : Turn} (ht : s.runTurn turn = .next t) :
    t.hostWork ≤ s.hostWork - [turn].count .host := by
  by_cases hturn : turn = .host
  · subst hturn
    exact h.hostWork_hostTurn ht
  · have hsame := (State.sameSetting_runTurn ht).hostWork ((State.runTurn_effect ht).cpu_eq hturn)
    simp [hsame, hturn]

/-- A handler's turn that is admitted leaves its motor's flag down. -/
theorem Inv.flag_down_of_handlerTurn (h : Inv s) (hbatch : s.cpu.batch = 0) {m : Nat}
    (ht : s.handlerTurn m = .next t) : (t.motor m).dma.tcif = false := by
  cases hpending : s.pending m with
  | true =>
    cases (State.handlerTurn_taken h.main_context hbatch hpending).symm.trans ht
    simp
  | false =>
    cases (State.handlerTurn_idle hpending).symm.trans ht
    exact (h.pending_eq_flag m).symm.trans hpending

end

/-! ### Runs -/

theorem runSteps_succ_next {s t : State} {n : Nat} (h : runSteps (n + 1) s = .next t) :
    ∃ u, step s = .next u ∧ runSteps n u = .next t := by
  cases hstep : step s with
  | next u => exact ⟨u, rfl, (runSteps_succ hstep n).symm.trans h⟩
  | fault r =>
    have hcore : core.step s = .fault r := hstep
    simp [runSteps, Host.Core.run, hcore] at h
  | refused r =>
    have hcore : core.step s = .refused r := hstep
    simp [runSteps, Host.Core.run, hcore] at h

/-- A scripted step is its turn's, from a state of the invariant with that turn taken. -/
theorem Inv.step_scripted {s t : State} (h : Inv s) {turn : Turn} {rest : List Turn} (hsched : s.sched = turn :: rest)
    (hstep : step s = .next t) :
    Inv { s with sched := rest } ∧ { s with sched := rest }.runTurn turn = .next t := by
  have hturn := (step_next hstep).2.2
  have htaken := h.takeTurn
  rw [State.takeTurn_cons hsched] at hturn htaken
  exact ⟨htaken, hturn⟩

/-- Where the script has a host turn for every piece of the host's work and then the handler's turn, that turn finds no command
in progress, and the run ends with the flag down. -/
theorem Inv.flag_down_of_script {s t : State} {m : Nat} {turns : List Turn} (h : Inv s)
    (hsched : s.sched = turns ++ [.handler m]) (hwork : s.hostWork ≤ turns.count .host)
    (hrun : runSteps (turns.length + 1) s = .next t) : (t.motor m).dma.tcif = false := by
  induction turns generalizing s with
  | nil =>
    obtain ⟨u, hstep, hlast⟩ := runSteps_succ_next hrun
    cases hlast
    obtain ⟨htaken, hturn⟩ := h.step_scripted hsched hstep
    exact htaken.flag_down_of_handlerTurn (h.batch_eq_zero_of_hostWork (Nat.le_zero.1 hwork)) hturn
  | cons turn turns ih =>
    obtain ⟨u, hstep, hrest⟩ := runSteps_succ_next hrun
    obtain ⟨htaken, hturn⟩ := h.step_scripted hsched hstep
    have hleft : u.hostWork ≤ s.hostWork - [turn].count .host := htaken.hostWork_runTurn hturn
    have hcount : (turn :: turns).count .host = [turn].count .host + turns.count .host :=
      List.count_append (l₁ := [turn])
    exact ih (stepKeepsTheInvariant s u h hstep) (State.sameSetting_runTurn hturn).sched (by omega) hrest

/-! ### Fair turns -/

/-- A fair sequence has any number of host turns. -/
theorem FairTurns.exists_count_host {turns : Nat → Turn} (h : FairTurns turns) (k : Nat) :
    ∃ n, k ≤ ((List.range n).map turns).count .host := by
  induction k with
  | zero => exact ⟨0, Nat.zero_le _⟩
  | succ k ih =>
    obtain ⟨n, hn⟩ := ih
    obtain ⟨j, hnj, hj⟩ := h .host n
    have hmono : ((List.range n).map turns).count .host ≤ ((List.range j).map turns).count .host :=
      ((List.range_sublist.2 hnj).map turns).count_le _
    refine ⟨j + 1, ?_⟩
    simp only [List.range_succ, List.map_append, List.count_append, List.map_cons, List.map_nil, hj, List.count_singleton_self]
    omega

/-- Settles O34: the script is cut at a handler's turn that comes after a host turn for every piece of the host's work. -/
theorem pendingInterruptIsEventuallyTaken : Obligations.PendingInterruptIsEventuallyTaken := by
  intro turns s m hfair hinv _
  obtain ⟨n, hn⟩ := hfair.exists_count_host s.hostWork
  obtain ⟨k, hnk, hk⟩ := hfair (.handler m) n
  have hwork : s.hostWork ≤ ((List.range k).map turns).count .host :=
    hn.trans (((List.range_sublist.2 hnk).map turns).count_le _)
  have hscript : (List.range (k + 1)).map turns = (List.range k).map turns ++ [.handler m] := by
    rw [List.range_succ, List.map_append, List.map_singleton, hk]
  refine ⟨k + 1, ?_⟩
  split
  · next t hrun =>
    have hscripted : Inv { s with sched := (List.range (k + 1)).map turns } := { hinv with }
    exact .inl (hscripted.flag_down_of_script hscript hwork (by simpa using hrun))
  · trivial
  · trivial

end Sys2Proof.Machine
end

section
/-! SUPPORT. Quiescence: with every stream disabled a tick serves no request, and no other agent has an enabled step
(70_reset_and_hazards.md R271). -/

namespace Sys2Proof.Machine

/-! ### The observation -/

theorem CompareUnit.update_eq (x : CompareUnit) : x.update = { x with ccr := if x.ocpe then x.ccrp else x.ccr } := by
  unfold CompareUnit.update
  split_ifs <;> rfl

theorem Group.observed_count (g : Group) : g.count.observed = g.observed := by
  unfold Group.count
  split_ifs
  · simp [Group.observed, PerChannel.map, CompareUnit.update_eq]
  · rfl

theorem Group.observed_drive (g : Group) : g.drive.observed = g.observed := by
  have hchan : ∀ x : CompareUnit,
      { (if x.mode = .pwm then { x with out := g.output x } else x) with ccr := 0#16, out := false } =
        { x with ccr := 0#16, out := false } := by
    intro x
    split_ifs <;> rfl
  simp [Group.drive, Group.observed, PerChannel.map, hchan]

/-- A tick moves the counter, the active compare values and the outputs alone. -/
theorem Group.observed_tick (g : Group) : g.tick.observed = g.observed :=
  g.count.observed_drive.trans g.observed_count

theorem State.groups_setGroup_self (s : State) (i : Nat) : s.groups.set i (s.group i) = s.groups := by
  refine State.groups_ext (s := s.setGroup i (s.group i)) (s.nt_setGroup i _) fun j => ?_
  rw [State.group_setGroup]
  split_ifs with hj
  · rw [hj.1]
  · rfl

theorem State.observed_setGroup (s : State) {i : Nat} {g : Group} (hg : g.observed = (s.group i).observed) :
    (s.setGroup i g).observed = s.observed := by
  have hgroups : (s.groups.set i g).map Group.observed = s.groups.map Group.observed := by
    rw [List.map_set, hg, ← List.map_set, s.groups_setGroup_self]
  simp [State.observed, hgroups]

theorem State.observed_takeTurn (s : State) : s.takeTurn.2.observed = s.observed := by
  rw [State.takeTurn_eq]
  rfl

/-! ### Disabled streams -/

/-- A disabled stream drops its request (45_streamer.md R196). -/
theorem State.dmaRequest_of_disabled {s : State} (hoff : ∀ m, (s.motor m).dma.en = false) (i : Nat) (c : Channel) :
    s.dmaRequest i c = .ok s := by
  unfold State.dmaRequest
  split <;> simp [hoff]

theorem State.serveChannels_of_disabled {s : State} (hoff : ∀ m, (s.motor m).dma.en = false) (i : Nat)
    (cs : List Channel) : s.serveChannels i cs = .ok s := by
  induction cs with
  | nil => rfl
  | cons c rest ih => simp [State.serveChannels, State.dmaRequest_of_disabled hoff, ih]

theorem State.timerStep_of_disabled {s : State} (hoff : ∀ m, (s.motor m).dma.en = false) (i : Nat) :
    s.timerStep i = s.setGroup i (s.group i).tick := by
  simp [State.timerStep, State.serveChannels_of_disabled (s := s.setGroup i (s.group i).tick) hoff]

/-! ### A quiescent state's turns -/

section
variable {s : State} (h : Quiescent s)
include h

/-- A motor that the machine lacks reads as one at reset. -/
theorem Quiescent.idle_stream (m : Nat) : (s.motor m).dma.en = false ∧ (s.motor m).dma.tcif = false := by
  obtain hm | hm := Nat.lt_or_ge m s.nm
  · exact h.streams m hm
  · rw [State.motor_out_of_range s hm]
    exact ⟨rfl, rfl⟩

theorem Quiescent.no_word : s.prog[s.cpu.hpc]? = none := List.getElem?_eq_none h.done.ge

theorem Quiescent.not_pending (m : Nat) : s.pending m = false := by
  simp [State.pending, (h.idle_stream m).2]

theorem Quiescent.takeTurn : Quiescent s.takeTurn.2 where
  done := by simp [h.done]
  no_fault := by simp [h.no_fault]
  streams m _ := by simpa using h.idle_stream m

theorem Quiescent.setGroup (i : Nat) (g : Group) : Quiescent (s.setGroup i g) := ⟨h.done, h.no_fault, h.streams⟩

/-- The host is past its last command and no interrupt is pending, so a timer alone has an enabled step, and its tick serves
no request. -/
theorem Quiescent.turn {t : State} {turn : Turn} (heffect : TurnEffect s turn t) :
    Quiescent t ∧ t.observed = s.observed := by
  cases heffect with
  | idle => exact ⟨h, rfl⟩
  | illegal word => cases h.no_word.symm.trans word
  | command at_command => exact absurd h.done at_command.lt_length.ne
  | interrupt _ _ pending => cases (h.not_pending _).symm.trans pending
  | tick =>
    rw [State.timerStep_of_disabled fun m => (h.idle_stream m).1]
    exact ⟨h.setGroup _ _, s.observed_setGroup (Group.observed_tick _)⟩

end

/-- Settles O47: the turn taken is no part of the observation, and neither is what a tick moves. -/
theorem quiescentObservationIsFixed : Obligations.QuiescentObservationIsFixed := by
  intro s t h hstep
  obtain ⟨hquiet, hobserved⟩ := h.takeTurn.turn (step_effect hstep)
  exact ⟨hquiet, hobserved.trans s.observed_takeTurn⟩

end Sys2Proof.Machine
end

section
/-! SUPPORT. Of all a step can do, ENCODE alone writes memory (20_memory.md, 70_reset_and_hazards.md R265). -/

namespace Sys2Proof.Machine

theorem State.readTick_eq {s t : State} (h : t.mem = s.mem) (m k : Nat) : t.readTick m k = s.readTick m k := by
  simp [State.readTick, h]

theorem State.readTick_of_le (s : State) (m : Nat) {k : Nat} (hk : 16 ≤ k) : s.readTick m k = none := if_neg hk.not_gt

theorem State.readTick_encodeMotor_other (s : State) {m n : Nat} (hn : n ≠ m) (th : Half) (k : Nat) :
    (s.encodeMotor m th).readTick n k = s.readTick n k := by
  obtain hk | hk := Nat.lt_or_ge k 16
  · rw [State.readTick_encodeMotor th hk, if_neg hn]
  · rw [State.readTick_of_le _ n hk, State.readTick_of_le s n hk]

@[simp] theorem State.restartCurrent_mem (s : State) : s.restartCurrent.mem = s.mem := by
  unfold State.restartCurrent
  split_ifs <;> rfl

/-- The DMA reads the buffers and never writes them (45_streamer.md R196). -/
theorem State.mem_dmaRequest {s t : State} {i : Nat} {c : Channel} (h : s.dmaRequest i c = .ok t) : t.mem = s.mem := by
  obtain rfl | ⟨m, v, -, -, -, -, rfl⟩ := State.dmaRequest_ok h <;> rfl

@[simp] theorem State.mem_timerStep (s : State) (i : Nat) : (s.timerStep i).mem = s.mem := by
  have htick : (s.setGroup i (s.group i).tick).mem = s.mem := s.setGroup_mem i _
  obtain hok | ⟨f, -, hf⟩ := s.timerStep_cases i
  · exact State.serveChannels_induction (P := fun u => u.mem = s.mem)
      (fun _ _ _ ha hb => (State.mem_dmaRequest hb).trans ha) htick hok
  · rw [hf, State.recordFault_mem]

/-- What a turn can do to motor `m`'s buffer, with `t` the state after it. -/
inductive BufferChange (s : State) (turn : Turn) (m : Nat) (t : State) : Prop where
  | kept (same : ∀ k, t.readTick m k = s.readTick m k)
  /-- ENCODE writes the buffer of a disabled stream (40_encoder.md R116). -/
  | encoded {th : Half} (host : turn = .host) (at_command : s.AtCommand (.encode m th)) (off : (s.motor m).dma.en = false)

theorem BufferChange.of_mem {s t : State} {turn : Turn} {m : Nat} (h : t.mem = s.mem) : BufferChange s turn m t :=
  .kept (State.readTick_eq h m)

theorem CommandEffect.buffer {s t : State} {i : Instr} (h : CommandEffect s i t) (hat : s.AtCommand i) (m : Nat) :
    BufferChange s .host m t := by
  cases h with
  | @arm n th bd _ idle =>
    by_cases hn : m = n
    · subst hn
      exact .encoded rfl hat idle
    · exact .kept (s.readTick_encodeMotor_other hn th)
  | batchNext | batchLast => exact .of_mem s.restartCurrent_mem
  | raise | bindLater | bindFirst | complete => exact .of_mem rfl

theorem TurnEffect.buffer {s t : State} {turn : Turn} (h : TurnEffect s turn t) (m : Nat) : BufferChange s turn m t := by
  cases h with
  | command at_command effect => exact effect.buffer at_command m
  | tick => exact .of_mem (s.mem_timerStep _)
  | idle | illegal | interrupt => exact .of_mem rfl

/-- Settles O46: taking the turn leaves memory, and the turn's only change of a buffer is ENCODE's. -/
theorem bufferChangesOnlyWhileItsStreamIsDisabled : Obligations.BufferChangesOnlyWhileItsStreamIsDisabled := by
  intro s t m k hstep hne
  obtain same | ⟨host, at_command, off⟩ := (step_effect hstep).buffer m
  · exact absurd ((same k).trans (State.readTick_eq s.takeTurn_mem m k)) hne
  · obtain ⟨w, hw, hdecode⟩ := State.takeTurn_atCommand.1 at_command
    exact ⟨by simpa using off, host, w, _, hw, hdecode⟩

end Sys2Proof.Machine
end

section
/-! SUPPORT. The reset state's pins and buffers (70_reset_and_hazards.md R250). -/

namespace Sys2Proof.Machine

section
variable (nm nt : Nat) (p : Platform)

theorem State.pin_resetWith (q : PinId) :
    (State.resetWith nm nt p).pin q = ⟨if q ∈ p.pinOwners0 then .other else .none, .unchanged⟩ := by
  have hread : (State.resetWith nm nt p).pin q = (Sparse.read (pinsAtReset p.pinOwners0) q.id).getD PinState.reset := rfl
  rw [hread, read_pinsAtReset]
  split_ifs <;> rfl

@[simp] theorem State.readTick_resetWith (m k : Nat) : (State.resetWith nm nt p).readTick m k = none :=
  ite_self none

end

theorem Group.chan_reset (c : Channel) : Group.reset.chan c = CompareUnit.reset := by cases c <;> rfl

/-- Settles O10: each motor and each group is at reset, memory lists no byte, and the pins are those of `PIN_OWNERS0`. -/
theorem resetValues : Obligations.ResetValues := by
  intro nm nt p
  refine ⟨rfl, rfl, fun m => ?_, State.readTick_resetWith nm nt p, rfl, fun i => ?_, State.pin_resetWith nm nt p⟩
  · rw [State.motor_resetWith]
    exact ⟨rfl, rfl, rfl, rfl⟩
  · rw [State.group_resetWith]
    exact ⟨rfl, rfl, rfl, rfl, rfl, rfl, rfl, rfl, rfl, rfl, Group.chan_reset⟩

end Sys2Proof.Machine
end

section
/-! SUPPORT. A decoded command's motor index is read from the 8-bit field `M`, so it fits it (30_encoding.md R87, R92). -/

namespace Sys2Proof

theorem wellFormed_of_decode_eq_ok {w : Word} {i : Instr} (h : decode w = .ok i) : i.wellFormed = true := by
  have hfits : (motorField w).toNat < 256 := (motorField w).isLt
  obtain ⟨-, ⟨-, -, rfl⟩ | ⟨-, rfl⟩ | ⟨-, -, rfl⟩ | ⟨-, -, rfl⟩⟩ := decode_eq_ok_iff.1 h
  · exact decide_eq_true hfits
  · exact decide_eq_true hfits
  · rfl
  · exact decide_eq_true hfits

/-- Settles O2: the word is packed from the fields the decoder read, and `M` is one of them. -/
theorem encodeOfDecodeIsTheWord : Obligations.EncodeOfDecodeIsTheWord := fun _ _ h =>
  ⟨encode_of_decode_eq_ok h, wellFormed_of_decode_eq_ok h⟩

end Sys2Proof
end

section
/-! SUPPORT. The checksum's bits in terms of payload and telemetry, and where the frame and its tick buffer carry them
(40_encoder.md R112, R114, R118). -/

namespace Sys2Proof.Machine

section
variable (p : BitVec 11) (t : Bool)

/-- F12 carries the payload one place up, above the telemetry bit (40_encoder.md R112). -/
theorem f12_getLsbD_succ (i : Nat) : (f12 p t).getLsbD (i + 1) = p.getLsbD i := by
  rw [f12_eq_append, BitVec.getLsbD_append, if_neg (by omega), Nat.add_sub_cancel]

/-- Checksum bits 3 to 1 are the XOR of three payload bits, four places apart (40_encoder.md R114). -/
theorem checksum_f12_getLsbD_succ {i : Nat} (hi : i < 3) : (checksum (f12 p t)).getLsbD (i + 1) =
    (p.getLsbD (i + 8) ^^ p.getLsbD (i + 4) ^^ p.getLsbD i) := by
  rw [checksum_getLsbD _ (by omega), Nat.add_right_comm i 1 8, Nat.add_right_comm i 1 4, f12_getLsbD_succ,
    f12_getLsbD_succ, f12_getLsbD_succ]

/-- Checksum bit 0 has the telemetry bit in the place of a payload bit (40_encoder.md R114). -/
theorem checksum_f12_getLsbD_zero : (checksum (f12 p t)).getLsbD 0 = (p.getLsbD 7 ^^ p.getLsbD 3 ^^ t) := by
  rw [checksum_getLsbD _ (by decide), f12_getLsbD_succ p t 7, f12_getLsbD_succ p t 3, f12_telemetry]

/-- The checksum is the frame's low nibble (40_encoder.md R117). -/
theorem frameOfPayload_getLsbD_of_lt {i : Nat} (hi : i < 4) :
    (frameOfPayload p t).getLsbD i = (checksum (f12 p t)).getLsbD i := by
  rw [frameOfPayload_eq_append, BitVec.getLsbD_append, if_pos hi]

end

/-- TICKS sends bit 15 first: entry `15 - i` carries frame bit `i` (30_encoding.md R81, 40_encoder.md R118). -/
theorem getElem?_ticks_sub (fr : Half) {i : Nat} (hi : i < 16) :
    (ticks fr)[15 - i]? = some (if fr.getLsbD i = true then 29#8 else 14#8) := by
  rw [getElem?_ticks fr (by omega), tick_eq_ite, Nat.sub_sub_self (by omega)]

/-- Settles O18: R114's bit form read through the places of payload and telemetry in F12, and the low nibble's entries. -/
theorem checksumOfPayloadAndTelemetry : Obligations.ChecksumOfPayloadAndTelemetry := by
  refine ⟨fun p t => ⟨?_, ?_, ?_, ?_⟩, fun p t i hi => ?_⟩
  · exact checksum_f12_getLsbD_succ p t (i := 2) (by decide)
  · exact checksum_f12_getLsbD_succ p t (i := 1) (by decide)
  · exact checksum_f12_getLsbD_succ p t (i := 0) (by decide)
  · exact checksum_f12_getLsbD_zero p t
  · rw [getElem?_ticks_sub _ (by omega), frameOfPayload_getLsbD_of_lt p t hi]

end Sys2Proof.Machine
end

section
/-! SUPPORT. At reset no agent but the host has an enabled step (70_reset_and_hazards.md R251). -/

namespace Sys2Proof.Machine

theorem State.timerTurn_idle {s : State} {i : Nat} (hstopped : (s.group i).cen = false) : s.timerTurn i = .next s := by
  simp [State.timerTurn, hstopped]

section
variable (nm nt : Nat) (p : Platform)

theorem State.pending_resetWith (m : Nat) : (State.resetWith nm nt p).pending m = false := by
  rw [State.pending, State.motor_resetWith]
  rfl

theorem State.cen_resetWith (i : Nat) : ((State.resetWith nm nt p).group i).cen = false := by
  rw [State.group_resetWith]
  rfl

end

/-- Settles O11: no flag is set and no counter enabled, so a handler's turn and a timer's turn are idle. -/
theorem resetEnablesNoInterruptOrTimer : Obligations.ResetEnablesNoInterruptOrTimer := fun nm nt p k =>
  have hpending := State.pending_resetWith nm nt p k
  ⟨hpending, State.handlerTurn_idle hpending, State.timerTurn_idle (State.cen_resetWith nm nt p k), rfl⟩

end Sys2Proof.Machine
end

section
/-! SUPPORT. What a tick leaves alone: serving the requests of some channels changes the preloads of those channels and the
counts and flags of the motors bound to them (45_streamer.md R191, R196). -/

namespace Sys2Proof.Machine

/-- A channel with its preload left out. -/
def CompareUnit.unloaded (x : CompareUnit) : CompareUnit := { x with ccrp := 0#16 }

theorem CompareUnit.unloaded_eq_iff {x y : CompareUnit} : x.unloaded = y.unloaded ↔
    x.src = y.src ∧ x.dier = y.dier ∧ x.mode = y.mode ∧ x.ocpe = y.ocpe ∧ x.ccr = y.ccr ∧ x.out = y.out := by
  simp [CompareUnit.unloaded]

/-- What serving the requests of group `i`'s channels `cs` leaves alone, beside what `TickFrame` says. -/
structure Served (i : Nat) (cs : List Channel) (s t : State) : Prop where
  pins : t.pins = s.pins
  mem : t.mem = s.mem
  groups : SameGroupsBut i s t
  cnt : (t.group i).cnt = (s.group i).cnt
  unloaded : ∀ c, ((t.group i).chan c).unloaded = ((s.group i).chan c).unloaded
  chan_kept : ∀ c, c ∉ cs → (t.group i).chan c = (s.group i).chan c
  chan : ∀ m, (t.motor m).chan = (s.motor m).chan
  setup : ∀ m, (t.motor m).dma.setup = (s.motor m).dma.setup
  motor_kept : ∀ m, (∀ c ∈ cs, (s.motor m).chan.boundTo i c = false) → t.motor m = s.motor m

theorem Served.refl (i : Nat) (cs : List Channel) (s : State) : Served i cs s s where
  pins := rfl
  mem := rfl
  groups _ _ := rfl
  cnt := rfl
  unloaded _ := rfl
  chan_kept _ _ := rfl
  chan _ := rfl
  setup _ := rfl
  motor_kept _ _ := rfl

theorem Served.trans {i : Nat} {cs : List Channel} {s t u : State} (h : Served i cs s t) (k : Served i cs t u) :
    Served i cs s u where
  pins := k.pins.trans h.pins
  mem := k.mem.trans h.mem
  groups j hj := (k.groups j hj).trans (h.groups j hj)
  cnt := k.cnt.trans h.cnt
  unloaded c := (k.unloaded c).trans (h.unloaded c)
  chan_kept c hc := (k.chan_kept c hc).trans (h.chan_kept c hc)
  chan m := (k.chan m).trans (h.chan m)
  setup m := (k.setup m).trans (h.setup m)
  motor_kept m hm := (k.motor_kept m fun c hc => (congrArg (·.boundTo i c) (h.chan m)).trans (hm c hc)).trans
    (h.motor_kept m hm)

/-- More channels leave less alone. -/
theorem Served.mono {i : Nat} {cs ds : List Channel} {s t : State} (h : Served i cs s t) (hsub : cs ⊆ ds) :
    Served i ds s t :=
  { h with
    chan_kept := fun c hc => h.chan_kept c fun hmem => hc (hsub hmem)
    motor_kept := fun m hm => h.motor_kept m fun c hc => hm c (hsub hc) }

/-- A transfer loads its channel's preload and counts its motor's stream. -/
theorem State.served_transfer {s : State} {i : Nat} {c : Channel} {m : Nat}
    (hbound : (s.motor m).chan.boundTo i c = true) (v : Byte) : Served i [c] s (s.transfer i c m v) where
  pins := rfl
  mem := rfl
  groups j hj := by rw [State.transfer_group, if_neg fun h => hj h.1]
  cnt := by
    rw [State.transfer_group]
    split_ifs <;> rfl
  unloaded d := by
    rw [State.transfer_group]
    split_ifs
    · by_cases hd : d = c
      · rw [hd, Group.chan_setChan_same]
        rfl
      · rw [Group.chan_setChan_other _ _ hd]
    · rfl
  chan_kept d hd := by
    rw [State.transfer_group]
    split_ifs
    · exact Group.chan_setChan_other _ _ (by simpa using hd)
    · rfl
  chan n := by
    rw [State.transfer_motor]
    split_ifs with hn
    · rw [hn.1]
    · rfl
  setup n := by
    rw [State.transfer_motor]
    split_ifs with hn
    · rw [hn.1]
      rfl
    · rfl
  motor_kept n hn := by
    have hne : n ≠ m := by
      rintro rfl
      exact absurd (hbound.symm.trans (hn c (List.mem_singleton_self c))) nofun
    rw [State.transfer_motor, if_neg fun h => hne h.1]

theorem State.served_dmaRequest {s t : State} {i : Nat} {c : Channel} (h : s.dmaRequest i c = .ok t) :
    Served i [c] s t := by
  obtain rfl | ⟨m, v, hserved, -, -, -, rfl⟩ := State.dmaRequest_ok h
  · exact .refl i [c] t
  · exact State.served_transfer (State.servedMotor_some hserved).2 v

theorem State.served_serveChannels {i : Nat} {cs : List Channel} {s t : State} (h : s.serveChannels i cs = .ok t) :
    Served i cs s t := by
  induction cs generalizing s with
  | nil =>
    cases h
    exact .refl i [] _
  | cons c rest ih =>
    unfold State.serveChannels at h
    split_ifs at h
    · split at h
      · cases h
      · next u hu =>
        exact ((State.served_dmaRequest hu).mono (by simp)).trans ((ih h).mono (List.subset_cons_self c rest))
    · exact (ih h).mono (List.subset_cons_self c rest)

/-! ### The whole tick -/

/-- The state of a tick before its requests: the counter, the active values and the outputs are new (R191). -/
def State.counted (s : State) (i : Nat) : State := s.setGroup i (s.group i).tick

section
variable {s : State} (h : Inv s) {i : Nat} (hi : i < s.reg.length)
include h hi

theorem Inv.counted_group : (s.counted i).group i = (s.group i).tick :=
  State.group_setGroup_same s (hi.trans_le h.reg_fits) _

theorem Inv.counted : Inv (s.counted i) := h.setGroup hi (Group.keeps_tick _)

/-- In the invariant no request of a tick can fail. -/
theorem Inv.serveChannels_counted : (s.counted i).serveChannels i Channel.all = .ok (s.timerStep i) := by
  obtain hok | ⟨f, herror, -⟩ := s.timerStep_cases i
  · exact hok
  · obtain ⟨t, ht⟩ := State.serveChannels_ok (P := Inv) (i := i) (cs := Channel.all)
      (fun _ _ _ ha hb => ha.dmaRequest hb) (fun _ _ _ ha => ha.dmaRequest_ne_error) (h.counted hi)
    exact nomatch ht.symm.trans herror

theorem Inv.served_timerStep : Served i Channel.all (s.counted i) (s.timerStep i) :=
  State.served_serveChannels (h.serveChannels_counted hi)

theorem Inv.timerStep_cnt : ((s.timerStep i).group i).cnt = (s.group i).tick.cnt := by
  rw [(h.served_timerStep hi).cnt, h.counted_group hi]

theorem Inv.timerStep_unloaded (c : Channel) :
    (((s.timerStep i).group i).chan c).unloaded = ((s.group i).tick.chan c).unloaded := by
  rw [(h.served_timerStep hi).unloaded, h.counted_group hi]

theorem Inv.timerStep_sameGroupsBut : SameGroupsBut i s (s.timerStep i) := fun j hj =>
  ((h.served_timerStep hi).groups j hj).trans (State.group_setGroup_other s _ hj)

/-- A motor not bound to the group keeps all its fields. -/
theorem Inv.timerStep_motor_other {m : Nat} (hm : ∀ bd, (s.motor m).chan.bound = some bd → bd.grp ≠ i) :
    (s.timerStep i).motor m = s.motor m := by
  refine (h.served_timerStep hi).motor_kept m fun c _ => ?_
  by_contra hbound
  obtain ⟨bd, hbd, hgrp, -⟩ := MotorChannel.boundTo_iff.1 (Bool.not_eq_false _ ▸ hbound)
  exact hm bd hbd hgrp

end

/-! ### The group's counter and outputs -/

section
variable {g : Group} (hg : g.Running)
include hg

/-- The period register is 39 and the counter never passes it, so the counter wraps exactly from 39 (R191). -/
theorem Group.Running.wraps_iff : g.wraps ↔ g.cnt = 39#16 := by
  have hcnt := hg.cnt
  rw [Group.wraps, hg.arr]
  bv_omega

theorem Group.Running.tick_cnt : g.tick.cnt = if g.cnt = 39#16 then 0#16 else g.cnt + 1#16 := by
  simp only [Group.tick_cnt, hg.wraps_iff]

theorem Group.Running.tick_chan_ccr (c : Channel) : (g.tick.chan c).ccr =
    if g.cnt = 39#16 ∧ (g.chan c).ocpe = true then (g.chan c).ccrp else (g.chan c).ccr := by
  simp only [Group.tick_chan_ccr, hg.wraps_iff]

/-- With the main output on, a PWM channel's output compares the new counter with the new active value (R193). -/
theorem Group.Running.tick_chan_out {c : Channel} (hmode : (g.chan c).mode = .pwm) :
    (g.tick.chan c).out = decide (g.tick.cnt < (g.tick.chan c).ccr) := by
  have hcount : (g.count.chan c).mode = .pwm := by
    rw [Group.count_chan]
    split_ifs <;> simp [hmode]
  have hmoe : g.count.moe = true := by
    unfold Group.count
    split_ifs <;> exact hg.moe
  have hout : g.count.output (g.count.chan c) = decide (g.count.cnt < (g.count.chan c).ccr) := by
    simp [Group.output, hmoe]
  rw [Group.tick_chan, if_pos hcount]
  exact hout

end

/-! ### Outputs, motors and lines after a tick -/

section
variable {s : State} (h : Inv s) {i : Nat} (hi : i < s.reg.length)
include h hi

/-- Serving a request leaves the fields of its channel but the preload as the group's own tick leaves them. -/
theorem Inv.timerStep_chan (c : Channel) :
    (((s.timerStep i).group i).chan c).src = ((s.group i).chan c).src ∧
    (((s.timerStep i).group i).chan c).dier = ((s.group i).chan c).dier ∧
    (((s.timerStep i).group i).chan c).mode = ((s.group i).chan c).mode ∧
    (((s.timerStep i).group i).chan c).ocpe = ((s.group i).chan c).ocpe ∧
    (((s.timerStep i).group i).chan c).ccr = ((s.group i).tick.chan c).ccr ∧
    (((s.timerStep i).group i).chan c).out = ((s.group i).tick.chan c).out := by
  simpa using CompareUnit.unloaded_eq_iff.1 (h.timerStep_unloaded hi c)

theorem Inv.timerStep_out_of_pwm {c : Channel} (hmode : ((s.group i).chan c).mode = .pwm) :
    (((s.timerStep i).group i).chan c).out =
      decide (((s.timerStep i).group i).cnt < (((s.timerStep i).group i).chan c).ccr) := by
  obtain ⟨-, -, -, -, hccr, hout⟩ := h.timerStep_chan hi c
  rw [hout, hccr, h.timerStep_cnt hi, (h.group_running i hi).tick_chan_out hmode]

/-- A channel that is off belongs to no motor and is as at reset, with its output low. -/
theorem Inv.timerStep_out_of_off {c : Channel} (hmode : ((s.group i).chan c).mode = .off) :
    (((s.timerStep i).group i).chan c).out = false := by
  have hfree : ∀ m, (s.motor m).chan.boundTo i c = false := fun m => by
    by_contra hbound
    have hpwm := (h.channel_active i c m (Bool.not_eq_false _ ▸ hbound)).mode
    exact nomatch hmode.symm.trans hpwm
  obtain ⟨-, -, -, -, -, hout⟩ := h.timerStep_chan hi c
  rw [hout, (s.group i).keeps_tick.fresh c (h.channel_fresh i c hfree)]
  rfl

theorem Inv.timerStep_motor (m : Nat) :
    ((s.timerStep i).motor m).chan = (s.motor m).chan ∧ ((s.timerStep i).motor m).hreg = (s.motor m).hreg ∧
    ((s.timerStep i).motor m).dma.en = (s.motor m).dma.en ∧ ((s.timerStep i).motor m).dma.tcie = (s.motor m).dma.tcie ∧
    ((s.timerStep i).motor m).dma.setup = (s.motor m).dma.setup := by
  have hserved := h.served_timerStep hi
  have hstream := (s.tickFrame_timerStep i).streams m
  exact ⟨hserved.chan m, hstream.hreg, hstream.en, hstream.tcie, hserved.setup m⟩

end

theorem State.line_of_bound {s : State} {m : Nat} {bd : Bound} (hbound : (s.motor m).chan.bound = some bd) :
    s.line m = some ((s.group bd.grp).chan bd.ch).out := by
  simp [State.line, hbound]

theorem State.line_of_unbound {s : State} {m : Nat} (hfree : (s.motor m).chan.bound = none) : s.line m = none := by
  simp [State.line, hfree]

/-- After a tick a bound motor's line is high exactly while the counter is below the active value (R193). -/
theorem Inv.timerStep_line {s : State} (h : Inv s) {m : Nat} {bd : Bound} (hbound : (s.motor m).chan.bound = some bd) :
    (s.timerStep bd.grp).line m = some (decide
      (((s.timerStep bd.grp).group bd.grp).cnt < (((s.timerStep bd.grp).group bd.grp).chan bd.ch).ccr)) := by
  have hi := h.bound_registered m bd hbound
  have hmode := (h.channel_active bd.grp bd.ch m (MotorChannel.boundTo_iff.2 ⟨bd, hbound, rfl, rfl⟩)).mode
  rw [State.line_of_bound ((s.persists_timerStep bd.grp).bound m bd hbound), h.timerStep_out_of_pwm hi hmode]

/-! ### The turn -/

theorem TakesTurn.inv {s : State} {turn : Turn} {rest : List Turn} (h : TakesTurn s turn rest) (hinv : Inv s) :
    Inv { s with sched := rest } := by
  have htaken := hinv.takeTurn
  rwa [State.takeTurn_cons h.turn] at htaken

/-- A scripted timer turn is that group's turn. -/
theorem TakesTurn.step_timer {s : State} {i : Nat} {rest : List Turn} (h : TakesTurn s (.timer i) rest) :
    step s = { s with sched := rest }.timerTurn i := by
  have hlegal : s.motorCountLegal = true := decide_eq_true h.motor_count
  simp [step, hlegal, h.no_fault, State.takeTurn_cons h.turn, State.runTurn]

theorem TakesTurn.step_tick {s : State} {i : Nat} {rest : List Turn} (h : TakesTurn s (.timer i) rest) (hinv : Inv s)
    (hi : i < s.reg.length) : step s = .next ({ s with sched := rest }.timerStep i) := by
  have hcen : ({ s with sched := rest }.group i).cen = true := (hinv.group_running i hi).cen
  rw [h.step_timer, State.timerTurn, if_pos hcen]

/-- Settles O35: an unregistered group does not count; a registered one's step is its tick with the requests served, and
serving changes preloads, counts and flags alone. -/
theorem timerTickCountsUpdatesAndDrives : Obligations.TimerTickCountsUpdatesAndDrives := by
  refine ⟨fun s i rest hinv hturn hfree => ?unregistered, fun s i rest hinv hturn hi => ?registered⟩
  case unregistered =>
    have hreset : { s with sched := rest }.group i = Group.reset := hinv.group_fresh i hfree
    rw [hturn.step_timer, State.timerTurn_idle (by rw [hreset]; rfl)]
  case registered =>
    have h := hturn.inv hinv
    have hrun := hinv.group_running i hi
    have hmotor := h.timerStep_motor hi
    have hbinding : ∀ m, (({ s with sched := rest }.timerStep i).motor m).chan.bound = (s.motor m).chan.bound :=
      fun m => congrArg MotorChannel.bound (hmotor m).1
    refine ⟨_, hturn.step_tick hinv hi, State.sameSetting_timerStep _ i, (State.tickFrame_timerStep _ i).cpu,
      (h.timerStep_fault hrun.cen).trans hturn.no_fault, ⟨(State.tickFrame_timerStep _ i).reg, fun p => ?pins⟩,
      fun a => ?memory, h.timerStep_sameGroupsBut hi, (State.persists_timerStep _ i).timeBase i hi,
      (h.timerStep_cnt hi).trans hrun.tick_cnt, fun c => ?channel, hmotor,
      fun m => h.timerStep_motor_other hi, fun m bd hbound => ⟨?wired, ?driven⟩,
      fun m hfree => State.line_of_unbound ((hbinding m).trans hfree)⟩
    case pins => simp only [State.pin, (h.served_timerStep hi).pins, State.counted, State.setGroup_pins]
    case memory => rw [State.mem_timerStep]
    case channel =>
      obtain ⟨hsrc, hdier, hmode, hocpe, hccr, -⟩ := h.timerStep_chan hi c
      refine ⟨hsrc, hdier, hmode, hocpe, hccr.trans (hrun.tick_chan_ccr c), fun hpwm => ?_, h.timerStep_out_of_off hi⟩
      rw [h.timerStep_out_of_pwm hi hpwm, decide_eq_true_iff]
    case wired => exact State.line_of_bound ((hbinding m).trans hbound)
    case driven =>
      rintro rfl
      exact h.timerStep_line hbound

end Sys2Proof.Machine
end

section
/-! SUPPORT. What a tick does to one motor's stream and to the preload of its channel: one transfer at a compare event, and
nothing else (45_streamer.md R194, R196, R197). -/

namespace Sys2Proof.Machine

/-- A compare event of motor `m`'s channel finds its stream able to transfer (R196). -/
abbrev State.Transfers (s : State) (m : Nat) (bd : Bound) : Prop :=
  (s.group bd.grp).cnt = ((s.group bd.grp).chan bd.ch).ccr ∧ (s.motor m).dma.en = true ∧ (s.motor m).dma.ndtr ≠ 0#16

/-- What serving requests does to motor `m`'s stream and to the preload of its channel. -/
inductive StreamServed (s : State) (m : Nat) (bd : Bound) (t : State) : Prop where
  | moved {v : Byte} (event : s.Transfers m bd)
      (entry : s.readTick m (16 - (s.motor m).dma.ndtr.toNat) = some v)
      (chan : (t.group bd.grp).chan bd.ch = { (s.group bd.grp).chan bd.ch with ccrp := BitVec.setWidth 16 v })
      (motor : t.motor m = { (s.motor m) with dma := (s.motor m).dma.transferred })
  | kept (none_due : ¬ s.Transfers m bd) (chan : (t.group bd.grp).chan bd.ch = (s.group bd.grp).chan bd.ch)
      (motor : t.motor m = s.motor m)

/-- Motor `m`'s stream, its channel, its group's counter and the buffers are the same. -/
structure SameStream (m : Nat) (bd : Bound) (s t : State) : Prop where
  cnt : (t.group bd.grp).cnt = (s.group bd.grp).cnt
  chan : (t.group bd.grp).chan bd.ch = (s.group bd.grp).chan bd.ch
  motor : t.motor m = s.motor m
  mem : t.mem = s.mem

/-- Steps before and after that leave the stream alone change nothing of how it was served. -/
theorem StreamServed.transport {m : Nat} {bd : Bound} {s u w t : State} (h : StreamServed u m bd w)
    (before : SameStream m bd s u) (after : SameStream m bd w t) : StreamServed s m bd t := by
  have hdue : u.Transfers m bd ↔ s.Transfers m bd := by
    simp only [State.Transfers, before.cnt, before.chan, before.motor]
  cases h with
  | moved event entry chan motor =>
    rw [before.motor, State.readTick_eq before.mem] at entry
    refine .moved (hdue.1 event) entry ?_ ?_
    · rw [after.chan, chan, before.chan]
    · rw [after.motor, motor, before.motor]
  | kept none_due chan motor =>
    exact .kept (mt hdue.2 none_due) (after.chan.trans (chan.trans before.chan))
      (after.motor.trans (motor.trans before.motor))

/-- Serving other channels than the motor's own leaves its stream alone. -/
theorem Served.sameStream {s t : State} {m : Nat} {bd : Bound} {cs : List Channel} (h : Served bd.grp cs s t)
    (hbound : (s.motor m).chan.bound = some bd) (hcs : bd.ch ∉ cs) : SameStream m bd s t where
  cnt := h.cnt
  chan := h.chan_kept bd.ch hcs
  motor := h.motor_kept m fun c hc => by
    have hne : bd.ch ≠ c := fun heq => hcs (heq ▸ hc)
    simp [MotorChannel.boundTo, hbound, hne]
  mem := h.mem

theorem State.serveChannels_append {i : Nat} {cs ds : List Channel} {s t : State}
    (h : s.serveChannels i (cs ++ ds) = .ok t) :
    ∃ u, s.serveChannels i cs = .ok u ∧ u.serveChannels i ds = .ok t := by
  induction cs generalizing s with
  | nil => exact ⟨s, rfl, h⟩
  | cons c rest ih =>
    simp only [List.cons_append, State.serveChannels] at h ⊢
    split_ifs at h ⊢
    · cases hrequest : s.dmaRequest i c with
      | error f => simp [hrequest] at h
      | ok u => exact ih (by simpa [hrequest] using h)
    · exact ih h

theorem Inv.serveChannels {s t : State} (h : Inv s) {i : Nat} {cs : List Channel}
    (hserve : s.serveChannels i cs = .ok t) : Inv t :=
  State.serveChannels_induction (P := Inv) (fun _ _ _ ha hb => ha.dmaRequest hb) h hserve

theorem Inv.nextEntry_eq_readTick {s : State} (h : Inv s) (m : Nat) :
    s.nextEntry m = s.readTick m (16 - (s.motor m).dma.ndtr.toNat) := by
  have hcount : (s.motor m).dma.ndtr.toNat ≤ 16 := (h.stream_consistent m).count
  simp [State.nextEntry, Config.bufLen, hcount]

section
variable {s t : State} (h : Inv s) {m : Nat} {bd : Bound} (hbound : (s.motor m).chan.bound = some bd)
include h hbound

theorem Inv.channel_active_of_bound : ((s.group bd.grp).chan bd.ch).Active :=
  h.channel_active bd.grp bd.ch m (MotorChannel.boundTo_iff.2 ⟨bd, hbound, rfl, rfl⟩)

/-- A channel serves no motor but the one bound to it. -/
theorem Inv.servedMotor_of_bound : s.servedMotor bd.grp bd.ch = some m := by
  have hto : (s.motor m).chan.boundTo bd.grp bd.ch = true := MotorChannel.boundTo_iff.2 ⟨bd, hbound, rfl, rfl⟩
  have hfound : s.servedMotor bd.grp bd.ch ≠ none := fun hnone =>
    List.find?_eq_none.1 hnone m (List.mem_range.2 (State.bound_in_range hbound)) hto
  obtain ⟨n, hn⟩ := Option.ne_none_iff_exists'.1 hfound
  obtain ⟨bd', hbound', hgrp, hch⟩ := MotorChannel.boundTo_iff.1 (State.servedMotor_some hn).2
  rw [hn, h.one_motor_per_channel n m bd' bd hbound' hbound hgrp hch]

theorem Inv.requests_iff : (s.group bd.grp).requests bd.ch = true ↔
    (s.group bd.grp).cnt = ((s.group bd.grp).chan bd.ch).ccr := by
  have hactive := h.channel_active_of_bound hbound
  simp [Group.requests, hactive.mode, hactive.dier]

/-- Serving the motor's own channel. -/
theorem Inv.streamServed_own (hserve : s.serveChannels bd.grp [bd.ch] = .ok t) : StreamServed s m bd t := by
  have hi : bd.grp < s.nt := (h.bound_registered m bd hbound).trans_le h.reg_fits
  by_cases hevent : s.Transfers m bd
  · have hcan : (s.motor m).dma.en = true ∧ (s.motor m).dma.ndtr ≠ 0#16 := hevent.2
    cases hv : s.nextEntry m with
    | none => exact absurd hv (h.nextEntry_ne_none hcan.1 hcan.2)
    | some v =>
      have ht : s.transfer bd.grp bd.ch m v = t := by
        simpa [State.serveChannels, (h.requests_iff hbound).2 hevent.1, State.dmaRequest, h.servedMotor_of_bound hbound,
          hcan, hv] using hserve
      subst ht
      refine .moved hevent ((h.nextEntry_eq_readTick m).symm.trans hv) ?chan ?motor
      case chan => rw [State.transfer_group, if_pos ⟨rfl, hi⟩, Group.chan_setChan_same]
      case motor => rw [State.transfer_motor, if_pos ⟨rfl, State.bound_in_range hbound⟩]
  · have ht : s = t := by
      by_cases hrequest : (s.group bd.grp).requests bd.ch = true
      · have hcannot : ¬((s.motor m).dma.en = true ∧ (s.motor m).dma.ndtr ≠ 0#16) := fun hcan =>
          hevent ⟨(h.requests_iff hbound).1 hrequest, hcan⟩
        simpa [State.serveChannels, hrequest, State.dmaRequest, h.servedMotor_of_bound hbound, hcannot] using hserve
      · simpa [State.serveChannels, hrequest] using hserve
    subst ht
    exact .kept hevent rfl rfl

theorem Inv.streamServed_serveChannels (hserve : s.serveChannels bd.grp Channel.all = .ok t) : StreamServed s m bd t := by
  obtain ⟨before, after, hall⟩ := List.append_of_mem (Channel.mem_all bd.ch)
  have hnodup : (before ++ bd.ch :: after).Nodup := hall ▸ (by decide : Channel.all.Nodup)
  obtain ⟨hnot, -⟩ := List.nodup_cons.1 (List.nodup_middle.1 hnodup)
  rw [List.mem_append, not_or] at hnot
  rw [hall] at hserve
  obtain ⟨u, hu, hrest⟩ := State.serveChannels_append hserve
  obtain ⟨w, hown, hlast⟩ := State.serveChannels_append (cs := [bd.ch]) hrest
  have hbefore := State.served_serveChannels hu
  have hboundu : (u.motor m).chan.bound = some bd := (congrArg MotorChannel.bound (hbefore.chan m)).trans hbound
  have hboundw : (w.motor m).chan.bound = some bd :=
    (congrArg MotorChannel.bound ((State.served_serveChannels hown).chan m)).trans hboundu
  exact ((h.serveChannels hu).streamServed_own hboundu hown).transport (hbefore.sameStream hbound hnot.1)
    ((State.served_serveChannels hlast).sameStream hboundw hnot.2)

/-- A tick moves the counter, the active values and the outputs, and then serves the stream (R191). -/
theorem Inv.streamServed_timerStep : StreamServed (s.counted bd.grp) m bd (s.timerStep bd.grp) :=
  have hi := h.bound_registered m bd hbound
  (h.counted hi).streamServed_serveChannels hbound (h.serveChannels_counted hi)

/-- The compare event is the one of the state after the tick. -/
theorem Inv.counted_transfers_iff : (s.counted bd.grp).Transfers m bd ↔
    ((s.timerStep bd.grp).group bd.grp).cnt = (((s.timerStep bd.grp).group bd.grp).chan bd.ch).ccr ∧
      (s.motor m).dma.en = true ∧ (s.motor m).dma.ndtr ≠ 0#16 := by
  have hi := h.bound_registered m bd hbound
  obtain ⟨-, -, -, -, hccr, -⟩ := h.timerStep_chan hi bd.ch
  rw [State.Transfers, h.timerStep_cnt hi, hccr, h.counted_group hi]
  rfl

end

theorem DmaStream.transferred_ndtr_toNat {d : DmaStream} (hleft : d.ndtr ≠ 0#16) :
    d.transferred.ndtr.toNat + 1 = d.ndtr.toNat := by
  show (d.ndtr - 1#16).toNat + 1 = d.ndtr.toNat
  bv_omega

/-- The transfer at a count of 1 is the last and raises the flag (R197). -/
theorem DmaStream.Consistent.transferred_tcif {d : DmaStream} (h : d.Consistent) (hleft : d.ndtr ≠ 0#16) :
    d.transferred.tcif = true ↔ d.ndtr = 1#16 := by
  have hdown : d.tcif = false := by simpa [hleft] using h.flag
  have hlast : d.ndtr - 1#16 = 0#16 ↔ d.ndtr = 1#16 := by bv_omega
  simpa [DmaStream.transferred, hdown] using hlast

/-- Settles O36: the tick's one transfer, or none, of the motor's stream. -/
theorem compareEventTransfersTheNextEntry : Obligations.CompareEventTransfersTheNextEntry := by
  rintro s t _ _ m bd rest hinv hturn hstep hbound rfl rfl
  have h := hturn.inv hinv
  have ht : { s with sched := rest }.timerStep bd.grp = t := by
    have htick := hturn.step_tick hinv (hinv.bound_registered m bd hbound)
    simpa using htick.symm.trans hstep
  have hinvt : Inv t := stepKeepsTheInvariant s t hinv hstep
  have hdue := h.counted_transfers_iff hbound
  have hstream := h.streamServed_timerStep hbound
  rw [ht] at hdue hstream
  cases hstream with
  | moved event entry chan motor =>
    obtain ⟨hevent, hen, hleft⟩ := hdue.1 event
    have hflag : (t.motor m).dma.tcif = true ↔ (s.motor m).dma.ndtr = 1#16 := by
      rw [motor]
      exact (hinv.stream_consistent m).transferred_tcif hleft
    refine ⟨fun _ _ _ => ⟨_, entry, by rw [chan], ?count, by rw [motor]; exact hen, hflag, ?pending⟩,
      fun hnone => ?absurd⟩
    case count =>
      rw [motor]
      exact DmaStream.transferred_ndtr_toNat hleft
    case pending => rw [hinvt.pending_eq_flag, hflag]
    case absurd =>
      obtain hcnt | hoff | hdone := hnone
      · exact absurd hevent hcnt
      · exact absurd (hen.symm.trans hoff) nofun
      · exact absurd hdone hleft
  | kept none_due chan motor =>
    refine ⟨fun hevent hen hleft => absurd (hdue.2 ⟨hevent, hen, hleft⟩) none_due,
      fun _ => ⟨?_, congrArg Motor.dma motor⟩⟩
    rw [chan, h.counted_group (hinv.bound_registered m bd hbound), Group.tick_chan_ccrp]
    rfl

end Sys2Proof.Machine
end

section
/-! SUPPORT. A stream's four numbers over the ticks of its group: the counter, the active value, the preload and the count
left, in closed form (45_streamer.md R191, R192, R196, R198). -/

namespace Sys2Proof.Machine

/-- What a frame's way to the line depends on: the group's counter, the channel's active value and preload, and the entries
the stream has left. -/
structure Lane where
  cnt : Nat
  act : Nat
  pre : Nat
  left : Nat

/-- The counter's step with its update event (R191, R192). -/
def Lane.count (l : Lane) : Lane :=
  if l.cnt = 39 then { l with cnt := 0, act := l.pre } else { l with cnt := l.cnt + 1 }

/-- The compare event's transfer, if it is one and an entry is left, of the buffer with entries `e` (R196). -/
def Lane.serve (e : Nat → Nat) (l : Lane) : Lane :=
  if l.cnt = l.act ∧ l.left ≠ 0 then { l with pre := e (16 - l.left), left := l.left - 1 } else l

/-- A tick of the group. -/
def Lane.tick (e : Nat → Nat) (l : Lane) : Lane := l.count.serve e

section
variable (e : Nat → Nat)

variable {cnt act pre left : Nat}

theorem Lane.tick_below (hcnt : cnt < 39) : Lane.tick e ⟨cnt, act, pre, left⟩ = Lane.serve e ⟨cnt + 1, act, pre, left⟩ := by
  rw [Lane.tick, Lane.count, if_neg hcnt.ne]

theorem Lane.tick_wrap : Lane.tick e ⟨39, act, pre, left⟩ = Lane.serve e ⟨0, pre, pre, left⟩ := rfl

theorem Lane.serve_event (hevent : cnt = act) (hleft : left ≠ 0) :
    Lane.serve e ⟨cnt, act, pre, left⟩ = ⟨cnt, act, e (16 - left), left - 1⟩ := if_pos ⟨hevent, hleft⟩

theorem Lane.serve_none (hnone : cnt ≠ act ∨ left = 0) : Lane.serve e ⟨cnt, act, pre, left⟩ = ⟨cnt, act, pre, left⟩ :=
  if_neg fun hdue => hnone.elim (absurd hdue.1) hdue.2

/-- With no entry left, count and preload stay. -/
theorem Lane.tick_iterate_done {l : Lane} (hdone : l.left = 0) (n : Nat) :
    ((Lane.tick e)^[n] l).left = 0 ∧ ((Lane.tick e)^[n] l).pre = l.pre := by
  induction n with
  | zero => exact ⟨hdone, rfl⟩
  | succ n ih =>
    rw [Function.iterate_succ_apply']
    generalize (Lane.tick e)^[n] l = u at ih ⊢
    obtain ⟨cnt, act, pre, left⟩ := u
    obtain ⟨rfl, rfl⟩ : left = 0 ∧ pre = l.pre := ih
    simp only [Lane.tick, Lane.count]
    split_ifs <;> rw [Lane.serve_none e (.inr rfl)] <;> exact ⟨rfl, rfl⟩

/-- Within a period, with no event due, the counter alone moves. -/
theorem Lane.tick_iterate_quiet {n : Nat} (hn : cnt + n ≤ 39) (hquiet : act ≤ cnt ∨ cnt + n < act ∨ left = 0) :
    (Lane.tick e)^[n] ⟨cnt, act, pre, left⟩ = ⟨cnt + n, act, pre, left⟩ := by
  induction n with
  | zero => rfl
  | succ n ih =>
    rw [Function.iterate_succ_apply', ih (by omega) (by omega), Lane.tick_below e (by omega), Lane.serve_none e (by omega)]
    rfl

/-- Within a period, one entry moves, at the event. -/
theorem Lane.tick_iterate_event {n : Nat} (hn : cnt + n ≤ 39) (hahead : cnt < act) (hreached : act ≤ cnt + n)
    (hleft : left ≠ 0) :
    (Lane.tick e)^[n] ⟨cnt, act, pre, left⟩ = ⟨cnt + n, act, e (16 - left), left - 1⟩ := by
  induction n with
  | zero => omega
  | succ n ih =>
    rw [Function.iterate_succ_apply']
    by_cases hpast : act ≤ cnt + n
    · rw [ih (by omega) hpast, Lane.tick_below e (by omega), Lane.serve_none e (by omega)]
      rfl
    · rw [Lane.tick_iterate_quiet e (by omega) (by omega), Lane.tick_below e (by omega),
        Lane.serve_event e (by omega) hleft]
      rfl

/-- From a count before its event to the end of the period, an entry moves and becomes active. -/
theorem Lane.tick_iterate_to_wrap (hahead : cnt < act) (hact : act ≤ 39) (hleft : left ≠ 0) :
    (Lane.tick e)^[40 - cnt] ⟨cnt, act, pre, left⟩ =
      Lane.serve e ⟨0, e (16 - left), e (16 - left), left - 1⟩ := by
  have hticks : 40 - cnt = 39 - cnt + 1 := by omega
  have hend : cnt + (39 - cnt) = 39 := by omega
  rw [hticks, Function.iterate_succ_apply', Lane.tick_iterate_event e (by omega) hahead (by omega) hleft, hend,
    Lane.tick_wrap]

/-- From a count past its event to the end of the period, the preload becomes active. -/
theorem Lane.tick_iterate_to_wrap_quiet (hcnt : cnt ≤ 39) (hquiet : act ≤ cnt) :
    (Lane.tick e)^[40 - cnt] ⟨cnt, act, pre, left⟩ = Lane.serve e ⟨0, pre, pre, left⟩ := by
  have hticks : 40 - cnt = 39 - cnt + 1 := by omega
  have hend : cnt + (39 - cnt) = 39 := by omega
  rw [hticks, Function.iterate_succ_apply', Lane.tick_iterate_quiet e (by omega) (.inl hquiet), hend, Lane.tick_wrap]

/-! ### The frame -/

/-- The lane at count `r` of the `k`-th period that sends: entry `k` is the active value, and the next one is in the preload
once its event has passed (R198 a to c). -/
def Lane.sending (k r : Nat) : Lane where
  cnt := r
  act := e k
  pre := if e k ≤ r ∧ k < 15 then e (k + 1) else e k
  left := 15 - k - if e k ≤ r then 1 else 0

/-- Every entry's event falls within the period, after the counter's 0: entries are 14 or 29. -/
def EntriesInPeriod (e : Nat → Nat) : Prop := ∀ k < 16, 0 < e k ∧ e k ≤ 39

variable {e} (he : EntriesInPeriod e)
include he

theorem Lane.sending_zero {k : Nat} (hk : k < 16) : Lane.sending e k 0 = ⟨0, e k, e k, 15 - k⟩ := by
  obtain ⟨hpos, -⟩ := he k hk
  simp [Lane.sending, hpos.ne']

/-- At the wrap an entry is active, and still in the preload. -/
theorem Lane.serve_entry {k : Nat} (hk : k < 16) :
    Lane.serve e ⟨0, e k, e k, 15 - k⟩ = Lane.sending e k 0 := by
  obtain ⟨hpos, -⟩ := he k hk
  rw [Lane.serve_none e (.inl hpos.ne), Lane.sending_zero he hk]

theorem Lane.tick_iterate_sending {k r : Nat} (hk : k < 16) (hr : r < 40) :
    (Lane.tick e)^[r] (Lane.sending e k 0) = Lane.sending e k r := by
  obtain ⟨hpos, -⟩ := he k hk
  rw [Lane.sending_zero he hk]
  by_cases hevent : e k ≤ r ∧ k < 15
  · have hnext : 16 - (15 - k) = k + 1 := by omega
    rw [Lane.tick_iterate_event e (by omega) hpos (by omega) (by omega), hnext]
    simp [Lane.sending, hevent]
  · rw [Lane.tick_iterate_quiet e (by omega) (by omega)]
    have hleft : 15 - k - (if e k ≤ r then 1 else 0) = 15 - k := by
      split_ifs <;> omega
    simp [Lane.sending, hevent, hleft]

/-- A period brings the next entry. -/
theorem Lane.tick_iterate_period {k : Nat} (hk : k < 15) :
    (Lane.tick e)^[40] (Lane.sending e k 0) = Lane.sending e (k + 1) 0 := by
  obtain ⟨hpos, hle⟩ := he k (by omega)
  have hnext : 16 - (15 - k) = k + 1 := by omega
  have hleft : 15 - k - 1 = 15 - (k + 1) := by omega
  rw [Lane.sending_zero he (by omega)]
  exact (Lane.tick_iterate_to_wrap e hpos hle (by omega)).trans
    (by rw [hnext, hleft, Lane.serve_entry he (by omega)])

theorem Lane.tick_iterate_periods {k : Nat} (hk : k < 16) :
    (Lane.tick e)^[40 * k] (Lane.sending e 0 0) = Lane.sending e k 0 := by
  induction k with
  | zero => rfl
  | succ k ih =>
    rw [Nat.mul_succ, Nat.add_comm, Function.iterate_add_apply, ih (by omega), Lane.tick_iterate_period he (by omega)]

/-- The ticks from arming to the first period that sends: the first event is in this period if the counter is still below the
active value, else in the next one (R198). -/
def Lane.delay (l : Lane) : Nat := (if l.cnt < l.act then 40 else 80) - l.cnt

theorem Lane.tick_iterate_delay {l : Lane} (hcnt : l.cnt ≤ 39) (hact : l.act ≤ 39) (hpre : l.pre ≤ 39)
    (hleft : l.left = 16) : (Lane.tick e)^[l.delay] l = Lane.sending e 0 0 := by
  obtain ⟨cnt, act, pre, left⟩ := l
  obtain rfl : left = 16 := hleft
  simp only at hcnt hact hpre
  by_cases hahead : cnt < act
  · rw [Lane.delay, if_pos hahead, Lane.tick_iterate_to_wrap e hahead hact (by decide)]
    exact Lane.serve_entry he (k := 0) (by decide)
  · have hticks : 80 - cnt = 40 + (40 - cnt) := by omega
    rw [Lane.delay, if_neg hahead, hticks, Function.iterate_add_apply,
      Lane.tick_iterate_to_wrap_quiet e hcnt (not_lt.1 hahead)]
    obtain rfl | hpos := Nat.eq_zero_or_pos pre
    · rw [Lane.serve_event e rfl (by decide)]
      exact (Lane.tick_iterate_to_wrap_quiet e (cnt := 0) (by decide) le_rfl).trans (Lane.serve_entry he (k := 0) (by decide))
    · rw [Lane.serve_none e (.inl hpos.ne)]
      exact (Lane.tick_iterate_to_wrap e hpos hpre (by decide)).trans (Lane.serve_entry he (k := 0) (by decide))

/-- The armed frame in closed form. -/
theorem Lane.tick_iterate_frame {l : Lane} (hcnt : l.cnt ≤ 39) (hact : l.act ≤ 39) (hpre : l.pre ≤ 39)
    (hleft : l.left = 16) {k r : Nat} (hk : k < 16) (hr : r < 40) :
    (Lane.tick e)^[l.delay + 40 * k + r] l = Lane.sending e k r := by
  rw [Nat.add_comm, Function.iterate_add_apply, Nat.add_comm l.delay, Function.iterate_add_apply,
    Lane.tick_iterate_delay he hcnt hact hpre hleft, Lane.tick_iterate_periods he hk, Lane.tick_iterate_sending he hk hr]

end
end Sys2Proof.Machine
end

section
/-! SUPPORT. An armed stream over its group's ticks, with no other turn between: each tick is one of its lane, so the frame's
way to the line is the lane's closed form (45_streamer.md R193, R198, R201). -/

namespace Sys2Proof.Machine

/-- Motor `m`'s lane. -/
def State.lane (s : State) (m : Nat) (bd : Bound) : Lane where
  cnt := (s.group bd.grp).cnt.toNat
  act := ((s.group bd.grp).chan bd.ch).ccr.toNat
  pre := ((s.group bd.grp).chan bd.ch).ccrp.toNat
  left := (s.motor m).dma.ndtr.toNat

/-- Entry `k` of motor `m`'s buffer as a number; 0 where it holds no value. -/
def State.entry (s : State) (m k : Nat) : Nat := ((s.readTick m k).getD 0#8).toNat

theorem State.entry_of_readTick {s : State} {m k : Nat} {v : Byte} (hv : s.readTick m k = some v) :
    s.entry m k = v.toNat := by
  simp [State.entry, hv]

theorem State.entry_eq {s t : State} (h : t.mem = s.mem) (m : Nat) : t.entry m = s.entry m := by
  funext k
  rw [State.entry, State.readTick_eq h, State.entry]

theorem compareValue.toNat_le {v : Half} (h : compareValue v) : v.toNat ≤ 39 := by
  obtain rfl | rfl | rfl := h <;> decide

/-- The motor's line carries the comparison of the counter with the active value, as after a tick (R193). -/
def State.Driven (s : State) (m : Nat) (bd : Bound) : Prop :=
  s.line m = some (decide ((s.group bd.grp).cnt < ((s.group bd.grp).chan bd.ch).ccr))

/-- A machine that may run, with motor `m`'s stream enabled. -/
structure Streaming (m : Nat) (bd : Bound) (s : State) : Prop where
  inv : Inv s
  motor_count : 1 ≤ s.nm ∧ s.nm ≤ 256
  no_fault : s.fault = none
  bound : (s.motor m).chan.bound = some bd
  enabled : (s.motor m).dma.en = true

/-- `n` ticks of its group bring the machine from `s` to `t`. -/
structure StreamRun (n : Nat) (m : Nat) (bd : Bound) (s t : State) : Prop where
  streaming : Streaming m bd t
  cpu : t.cpu = s.cpu
  mem : t.mem = s.mem
  lane : t.lane m bd = (Lane.tick (s.entry m))^[n] (s.lane m bd)
  driven : 0 < n ∨ s.Driven m bd → t.Driven m bd

section
variable {s : State} {m : Nat} {bd : Bound}

/-! ### One tick -/

section
variable (h : Inv s) (hbound : (s.motor m).chan.bound = some bd)
include h hbound

theorem Inv.lane_cnt_le : (s.lane m bd).cnt ≤ 39 := (h.group_running _ (h.bound_registered m bd hbound)).cnt

/-- The group's own part of a tick is the counter's step of the lane. -/
theorem Inv.lane_counted : (s.counted bd.grp).lane m bd = (s.lane m bd).count := by
  have hi := h.bound_registered m bd hbound
  have hrun := h.group_running _ hi
  have hocpe := (h.channel_active_of_bound hbound).ocpe
  have hgroup := h.counted_group hi
  have hmotor : (s.counted bd.grp).motor m = s.motor m := rfl
  have hle := hrun.cnt
  simp only [State.lane, Lane.count, hgroup, hmotor, hrun.tick_cnt, hrun.tick_chan_ccr, Group.tick_chan_ccrp, hocpe]
  by_cases hend : (s.group bd.grp).cnt = 39#16
  · simp [hend]
  · have hne : (s.group bd.grp).cnt.toNat ≠ 39 := by bv_omega
    have hnext : ((s.group bd.grp).cnt + 1#16).toNat = (s.group bd.grp).cnt.toNat + 1 := by bv_omega
    simp [hend, hne, hnext]

end

/-- An event is due in the state exactly where it is in the lane. -/
theorem State.lane_due_iff (hen : (s.motor m).dma.en = true) : s.Transfers m bd ↔
    (s.lane m bd).cnt = (s.lane m bd).act ∧ (s.lane m bd).left ≠ 0 := by
  simp [State.Transfers, State.lane, hen, ← BitVec.toNat_inj]

/-- Serving the stream is serving its lane. -/
theorem StreamServed.lane {t : State} (h : StreamServed s m bd t) (hen : (s.motor m).dma.en = true)
    (hsame : Served bd.grp Channel.all s t) : t.lane m bd = (s.lane m bd).serve (s.entry m) := by
  have hdue := State.lane_due_iff (bd := bd) hen
  cases h with
  | @moved v event entry chan motor =>
    have hentry : (BitVec.setWidth 16 v).toNat = s.entry m (16 - (s.motor m).dma.ndtr.toNat) := by
      rw [BitVec.toNat_setWidth_of_le (by decide), State.entry_of_readTick entry]
    have hcount := DmaStream.transferred_ndtr_toNat event.2.2
    rw [Lane.serve, if_pos (hdue.1 event)]
    simp only [State.lane, hsame.cnt, chan, motor, hentry, Lane.mk.injEq, true_and]
    omega
  | kept none_due chan motor =>
    rw [Lane.serve, if_neg (mt hdue.2 none_due)]
    simp only [State.lane, hsame.cnt, chan, motor]

/-- A tick of the group is a tick of the lane. -/
theorem Streaming.lane_timerStep (h : Streaming m bd s) :
    (s.timerStep bd.grp).lane m bd = (s.lane m bd).tick (s.entry m) := by
  have hi := h.inv.bound_registered m bd h.bound
  rw [(h.inv.streamServed_timerStep h.bound).lane h.enabled (h.inv.served_timerStep hi), h.inv.lane_counted h.bound]
  rfl

theorem Streaming.tick (h : Streaming m bd s) : StreamRun 1 m bd s (s.timerStep bd.grp) where
  streaming :=
    have hcen := (h.inv.group_running _ (h.inv.bound_registered m bd h.bound)).cen
    { inv := h.inv.timerStep hcen
      motor_count := (s.sameSetting_timerStep bd.grp).nm ▸ h.motor_count
      no_fault := (h.inv.timerStep_fault hcen).trans h.no_fault
      bound := (s.persists_timerStep bd.grp).bound m bd h.bound
      enabled := ((s.tickFrame_timerStep bd.grp).streams m).en.trans h.enabled }
  cpu := (s.tickFrame_timerStep bd.grp).cpu
  mem := s.mem_timerStep bd.grp
  lane := h.lane_timerStep
  driven _ := h.inv.timerStep_line h.bound

/-! ### Runs -/

theorem StreamRun.refl (h : Streaming m bd s) : StreamRun 0 m bd s s :=
  ⟨h, rfl, rfl, rfl, fun hdriven => hdriven.resolve_left (lt_irrefl 0)⟩

theorem StreamRun.trans {j n : Nat} {u t : State} (hsu : StreamRun j m bd s u) (hut : StreamRun n m bd u t) :
    StreamRun (n + j) m bd s t where
  streaming := hut.streaming
  cpu := hut.cpu.trans hsu.cpu
  mem := hut.mem.trans hsu.mem
  lane := by rw [hut.lane, State.entry_eq hsu.mem, hsu.lane, Function.iterate_add_apply]
  driven hdriven := by
    obtain rfl | hn := Nat.eq_zero_or_pos n
    · exact hut.driven (.inr (hsu.driven (by simpa using hdriven)))
    · exact hut.driven (.inl hn)

/-- A scripted tick. -/
theorem Streaming.step (h : Streaming m bd s) {rest : List Turn} (hsched : s.sched = .timer bd.grp :: rest) :
    ∃ t, step s = .next t ∧ t.sched = rest ∧ StreamRun 1 m bd s t := by
  have hturn : TakesTurn s (.timer bd.grp) rest := ⟨h.motor_count, h.no_fault, hsched⟩
  have htaken : Streaming m bd { s with sched := rest } :=
    ⟨hturn.inv h.inv, h.motor_count, h.no_fault, h.bound, h.enabled⟩
  have hrun := htaken.tick
  exact ⟨_, hturn.step_tick h.inv (h.inv.bound_registered m bd h.bound), (State.sameSetting_timerStep _ _).sched,
    { hrun with driven := fun _ => hrun.driven (.inl Nat.one_pos) }⟩

/-- A script of ticks runs to its end. -/
theorem Streaming.run (h : Streaming m bd s) {n : Nat} {rest : List Turn}
    (hsched : s.sched = List.replicate n (.timer bd.grp) ++ rest) :
    ∃ t, runSteps n s = .next t ∧ t.sched = rest ∧ StreamRun n m bd s t := by
  induction n generalizing s with
  | zero => exact ⟨s, rfl, hsched, .refl h⟩
  | succ n ih =>
    obtain ⟨u, hstep, hu, hfirst⟩ := h.step hsched
    obtain ⟨t, hrun, ht, hrest⟩ := ih hfirst.streaming hu
    exact ⟨t, (runSteps_succ hstep n).trans hrun, ht, hfirst.trans hrest⟩

/-! ### The frame -/

/-- An enabled stream's buffer is filled, with entries 14 or 29. -/
theorem Streaming.exists_entry (h : Streaming m bd s) {k : Nat} (hk : k < 16) :
    ∃ v, s.readTick m k = some v ∧ s.entry m k = v.toNat ∧ (v = 14#8 ∨ v = 29#8) := by
  obtain hv | hv := h.inv.buffer_written m k h.enabled hk
  · exact ⟨_, hv, State.entry_of_readTick hv, .inl rfl⟩
  · exact ⟨_, hv, State.entry_of_readTick hv, .inr rfl⟩

theorem Streaming.entriesInPeriod (h : Streaming m bd s) : EntriesInPeriod (s.entry m) := by
  intro k hk
  obtain ⟨v, -, hentry, rfl | rfl⟩ := h.exists_entry hk <;> rw [hentry] <;> decide

/-- The lane at count `r` of period `k` of a frame just armed. -/
theorem Streaming.lane_of_armed (h : Streaming m bd s) (harmed : (s.motor m).dma.ndtr = 16#16) {k r : Nat} (hk : k < 16)
    (hr : r < 40) : (Lane.tick (s.entry m))^[(s.lane m bd).delay + 40 * k + r] (s.lane m bd) =
      Lane.sending (s.entry m) k r :=
  have hactive := h.inv.channel_active_of_bound h.bound
  Lane.tick_iterate_frame h.entriesInPeriod (h.inv.lane_cnt_le h.bound) hactive.ccr.toNat_le hactive.ccrp.toNat_le
    (congrArg BitVec.toNat harmed) hk hr

end

theorem State.lane_delay (s : State) (m : Nat) (bd : Bound) : (s.lane m bd).delay =
    (if (s.group bd.grp).cnt < ((s.group bd.grp).chan bd.ch).ccr then 40 else 80) - (s.group bd.grp).cnt.toNat := rfl

theorem Lane.delay_bounds {l : Lane} (hcnt : l.cnt ≤ 39) : 0 < l.delay ∧ l.delay ≤ 80 := by
  unfold Lane.delay
  split_ifs <;> omega

/-- In the invariant an enabled stream's flag is up exactly at count 0 (R197). -/
theorem Streaming.flag_iff {s : State} {m : Nat} {bd : Bound} (h : Streaming m bd s) :
    (s.motor m).dma.tcif = true ↔ (s.lane m bd).left = 0 := by
  have hcount : (s.lane m bd).left = 0 ↔ (s.motor m).dma.ndtr = 0#16 := by simp [State.lane, ← BitVec.toNat_inj]
  simp [(h.inv.stream_consistent m).flag, h.enabled, hcount]

/-- Settles O37: the last entry has moved after the first delay of at most 80 ticks and 15 periods, and then the count and the
preload stay. -/
theorem armedStreamCompletesWithinSeventeenPeriods : Obligations.ArmedStreamCompletesWithinSeventeenPeriods := by
  intro s m bd rest hinv hnm hfault hbound hen harmed hsched
  have h : Streaming m bd s := ⟨hinv, hnm, hfault, hbound, hen⟩
  obtain ⟨t, hruns, hrest, hrun⟩ := h.run hsched
  obtain ⟨v, hv, hentry, -⟩ := h.exists_entry (k := 15) (by decide)
  obtain ⟨-, hdelay⟩ := Lane.delay_bounds (hinv.lane_cnt_le hbound)
  have hticks : 680 = (80 - (s.lane m bd).delay) + ((s.lane m bd).delay + 40 * 15 + 0) := by omega
  have hlane := hrun.lane
  rw [hticks, Function.iterate_add_apply, h.lane_of_armed harmed (by decide) (by decide)] at hlane
  have hdone : (Lane.sending (s.entry m) 15 0).left = 0 := by simp [Lane.sending]
  have hlast : (Lane.sending (s.entry m) 15 0).pre = v.toNat := by simp [Lane.sending, hentry]
  obtain ⟨hleft, hpre⟩ := Lane.tick_iterate_done (s.entry m) hdone (80 - (s.lane m bd).delay)
  rw [← hlane] at hleft hpre
  refine ⟨t, v, hruns, hrest, hrun.streaming.no_fault, hrun.cpu, fun a => by rw [hrun.mem], hrun.streaming.enabled,
    BitVec.eq_of_toNat_eq hleft, hrun.streaming.flag_iff.2 hleft, hv, BitVec.eq_of_toNat_eq ?_⟩
  rw [BitVec.toNat_setWidth_of_le (by decide), ← hlast, ← hpre]
  rfl

/-- Settles O48: the lane's closed form at count `r` of the entry's period; the line is as the last tick drove it. -/
theorem armedFrameReachesTheLine : Obligations.ArmedFrameReachesTheLine := by
  intro s m bd rest k r hinv hnm hfault hbound hen harmed hsched hk hr
  have h : Streaming m bd s := ⟨hinv, hnm, hfault, hbound, hen⟩
  obtain ⟨hpos, hdelay⟩ := Lane.delay_bounds (hinv.lane_cnt_le hbound)
  rw [← s.lane_delay m bd]
  have hturns : 720 = ((s.lane m bd).delay + 40 * k + r) + (720 - ((s.lane m bd).delay + 40 * k + r)) := by omega
  rw [hturns, List.replicate_add, List.append_assoc] at hsched
  obtain ⟨t, hruns, -, hrun⟩ := h.run hsched
  obtain ⟨v, hv, hentry, -⟩ := h.exists_entry hk
  have hlane := hrun.lane.trans (h.lane_of_armed harmed hk hr)
  have hcnt : (t.group bd.grp).cnt.toNat = r := congrArg Lane.cnt hlane
  have hact : ((t.group bd.grp).chan bd.ch).ccr.toNat = v.toNat := (congrArg Lane.act hlane).trans hentry
  have hleft : (t.lane m bd).left = 15 - k - if v.toNat ≤ r then 1 else 0 := by
    rw [hlane, Lane.sending, hentry]
  refine ⟨t, v, hruns, hv, hcnt, BitVec.eq_of_toNat_eq (hact.trans ?active), ?line, hleft, ?flag⟩
  case active => rw [BitVec.toNat_setWidth_of_le (by decide)]
  case line =>
    have hdriven : t.Driven m bd := hrun.driven (.inl (by omega))
    simpa only [State.Driven, BitVec.lt_def, hcnt, hact] using hdriven
  case flag =>
    rw [hrun.streaming.flag_iff, hleft]
    split_ifs <;> omega

end Sys2Proof.Machine
end
